-- ==== Sys2Proof/Word.lean ====
section
/-! DEFINITION. The widths of the machine: bytes, words, immediates and register numbers (00_scope.md R7, R8, R91). -/

namespace Sys2Proof

/-- A register, a memory byte, a timer or an 8-bit immediate NN (R7, R21, R91). -/
abbrev Byte := BitVec 8

/-- The program counter, the index register, a stack entry or an instruction word (R7, R25, R28, R90). -/
abbrev Word := BitVec 16

/-- A nibble of an instruction word: the class C or the immediate N (R91). -/
abbrev Nibble := BitVec 4

/-- The 12-bit address/immediate NNN (R91). -/
abbrev Imm12 := BitVec 12

/-- A register number 0x0..0xF, or a key number 0x0..0xF (R21, R39). -/
abbrev Reg := Fin 16

/-- `b2i(b)` of R9: 1 if b is true, else 0. -/
def b2i (b : Bool) : Byte := if b then 1 else 0

end Sys2Proof
end

