-- ==== Sys2Proof/Syntax.lean ====
section
/-! DEFINITION. The instructions: one constructor per row of spec/opcode_table.json, in the table's order
(30_encoding.md R101). The operand fields have exactly the widths of R91, so no term holds a field out of range. -/

namespace Sys2Proof

/-- The 34 operations of R101. `x`, `y` are register numbers, `n`, `nn`, `nnn` the immediates of R91. -/
inductive Instr where
  /-- 00E0 clear-screen (R230). -/
  | cls
  /-- 00EE return (R140). -/
  | ret
  /-- 1nnn jump (R141). -/
  | jp (nnn : Imm12)
  /-- 2nnn call (R142). -/
  | call (nnn : Imm12)
  /-- 3xnn skip-equal-immediate (R143). -/
  | seImm (x : Reg) (nn : Byte)
  /-- 4xnn skip-not-equal-immediate (R144). -/
  | sneImm (x : Reg) (nn : Byte)
  /-- 5xy0 skip-equal-reg (R145). -/
  | seReg (x y : Reg)
  /-- 9xy0 skip-not-equal-reg (R146). -/
  | sneReg (x y : Reg)
  /-- 6xnn load-immediate (R171). -/
  | ldImm (x : Reg) (nn : Byte)
  /-- 7xnn add-immediate (R172). -/
  | addImm (x : Reg) (nn : Byte)
  /-- 8xy0 copy (R173). -/
  | ldReg (x y : Reg)
  /-- 8xy1 OR (R174). -/
  | or (x y : Reg)
  /-- 8xy2 AND (R175). -/
  | and (x y : Reg)
  /-- 8xy3 XOR (R176). -/
  | xor (x y : Reg)
  /-- 8xy4 add-reg (R177). -/
  | addReg (x y : Reg)
  /-- 8xy5 sub-reg (R178). -/
  | sub (x y : Reg)
  /-- 8xy7 sub-reg-reverse (R180). -/
  | subn (x y : Reg)
  /-- 8xy6 shift-right (R179); y is decoded and not used (R108). -/
  | shr (x y : Reg)
  /-- 8xyE shift-left (R181); y is decoded and not used (R108). -/
  | shl (x y : Reg)
  /-- Annn set-index (R200). -/
  | ldI (nnn : Imm12)
  /-- Bnnn jump-offset (R147). -/
  | jpV0 (nnn : Imm12)
  /-- Cxnn random (R182). -/
  | rnd (x : Reg) (nn : Byte)
  /-- Dxyn draw (R231). -/
  | drw (x y : Reg) (n : Nibble)
  /-- Ex9E skip-if-key-down (R250). -/
  | skp (x : Reg)
  /-- ExA1 skip-if-key-up (R251). -/
  | sknp (x : Reg)
  /-- Fx07 get-delay-timer (R252). -/
  | ldVxDt (x : Reg)
  /-- Fx15 set-delay-timer (R253). -/
  | ldDtVx (x : Reg)
  /-- Fx18 set-sound-timer (R254). -/
  | ldStVx (x : Reg)
  /-- Fx1E add-to-index (R201). -/
  | addI (x : Reg)
  /-- Fx29 load-font-address (R202). -/
  | ldF (x : Reg)
  /-- Fx33 store-bcd (R203). -/
  | ldB (x : Reg)
  /-- Fx55 register-dump (R204). -/
  | ldMemFromRegs (x : Reg)
  /-- Fx65 register-load (R205). -/
  | ldRegsFromMem (x : Reg)
  /-- Fx0A block-on-key (R255). -/
  | ldVxK (x : Reg)
  deriving DecidableEq, Repr

end Sys2Proof
end

