-- ==== Sys2Proof/WellFormed.lean ====
section
/-! DEFINITION. Which instruction words are well formed: the opcode table of 30_encoding.md R101 as data, a mask and a
value a row, apart from the decoder. Every term of `Instr` is well formed by its type (each field has its width of
R91), so the check is on words: a word that matches no row is the decode failure of R104. -/

namespace Sys2Proof

/-- One row of the opcode map: a word belongs to it when its bits under `mask` are `value`. -/
structure OpRow where
  mask : Word
  value : Word
  deriving DecidableEq, Repr

/-- The word belongs to the row. -/
def OpRow.matchesWord (r : OpRow) (w : Word) : Bool := w &&& r.mask == r.value

/-- Classes 0 to 7 and 9 of R101. -/
def opRowsLow : List OpRow :=
  [⟨0xFFFF, 0x00E0⟩, ⟨0xFFFF, 0x00EE⟩, ⟨0xF000, 0x1000⟩, ⟨0xF000, 0x2000⟩, ⟨0xF000, 0x3000⟩,
   ⟨0xF000, 0x4000⟩, ⟨0xF00F, 0x5000⟩, ⟨0xF00F, 0x9000⟩, ⟨0xF000, 0x6000⟩, ⟨0xF000, 0x7000⟩]

/-- Class 8 of R101, in the table's order. -/
def opRowsAlu : List OpRow :=
  [⟨0xF00F, 0x8000⟩, ⟨0xF00F, 0x8001⟩, ⟨0xF00F, 0x8002⟩, ⟨0xF00F, 0x8003⟩, ⟨0xF00F, 0x8004⟩,
   ⟨0xF00F, 0x8005⟩, ⟨0xF00F, 0x8007⟩, ⟨0xF00F, 0x8006⟩, ⟨0xF00F, 0x800E⟩]

/-- Classes A to F of R101, in the table's order. -/
def opRowsHigh : List OpRow :=
  [⟨0xF000, 0xA000⟩, ⟨0xF000, 0xB000⟩, ⟨0xF000, 0xC000⟩, ⟨0xF000, 0xD000⟩, ⟨0xF0FF, 0xE09E⟩,
   ⟨0xF0FF, 0xE0A1⟩, ⟨0xF0FF, 0xF007⟩, ⟨0xF0FF, 0xF015⟩, ⟨0xF0FF, 0xF018⟩, ⟨0xF0FF, 0xF01E⟩,
   ⟨0xF0FF, 0xF029⟩, ⟨0xF0FF, 0xF033⟩, ⟨0xF0FF, 0xF055⟩, ⟨0xF0FF, 0xF065⟩, ⟨0xF0FF, 0xF00A⟩]

/-- The opcode map of R101, 34 rows. -/
def opRows : List OpRow := opRowsLow ++ opRowsAlu ++ opRowsHigh

/-- The word is one of the 34 operations (R101, R104). -/
def wordWellFormed (w : Word) : Bool := opRows.any fun r => r.matchesWord w

/-- Two rows share a word: they agree on every bit both of them fix. -/
def OpRow.overlaps (r q : OpRow) : Bool := (r.value ^^^ q.value) &&& r.mask &&& q.mask == 0

end Sys2Proof
end

