-- ==== Sys2Proof/Decode.lean ====
section
/-! DEFINITION. The decoder (30_encoding.md R91, R94 to R100, R104), total on any word and on any bytes, and the encoder
written from the same patterns of R101. -/

namespace Sys2Proof

/-- C = w[15:12], the opcode class (R91). -/
def fieldC (w : Word) : Nibble := w.extractLsb' 12 4
/-- X = w[11:8], a register index (R91). -/
def fieldX (w : Word) : Reg := (w.extractLsb' 8 4).toFin
/-- Y = w[7:4], a register index (R91). -/
def fieldY (w : Word) : Reg := (w.extractLsb' 4 4).toFin
/-- N = w[3:0] (R91). -/
def fieldN (w : Word) : Nibble := w.extractLsb' 0 4
/-- NN = w[7:0] (R91). -/
def fieldNN (w : Word) : Byte := w.extractLsb' 0 8
/-- NNN = w[11:0] (R91). -/
def fieldNNN (w : Word) : Imm12 := w.extractLsb' 0 12

/-- Why a word is no instruction (R104): each is the spec's decode failure. -/
inductive DecodeReject where
  /-- Fewer than two bytes are left: no whole instruction word (R90). -/
  | truncated
  /-- A class-0 word other than 00E0 and 00EE (R96). -/
  | class0
  /-- 5xyN with N not 0 (R100). -/
  | class5
  /-- 8xy8 to 8xyD and 8xyF (R97). -/
  | class8
  /-- 9xyN with N not 0 (R100). -/
  | class9
  /-- ExNN other than Ex9E and ExA1 (R98). -/
  | classE
  /-- FxNN other than the nine of R99. -/
  | classF
  deriving DecidableEq, Repr

/-- Class 0: the sub-selector is the whole word (R96). -/
def decode0 (w : Word) : Except DecodeReject Instr :=
  if w = 0x00E0 then .ok .cls
  else if w = 0x00EE then .ok .ret
  else .error .class0

/-- Class 8: the sub-selector is the bottom nibble (R97). -/
def decode8 (w : Word) : Except DecodeReject Instr :=
  if fieldN w = 0x0 then .ok (.ldReg (fieldX w) (fieldY w))
  else if fieldN w = 0x1 then .ok (.or (fieldX w) (fieldY w))
  else if fieldN w = 0x2 then .ok (.and (fieldX w) (fieldY w))
  else if fieldN w = 0x3 then .ok (.xor (fieldX w) (fieldY w))
  else if fieldN w = 0x4 then .ok (.addReg (fieldX w) (fieldY w))
  else if fieldN w = 0x5 then .ok (.sub (fieldX w) (fieldY w))
  else if fieldN w = 0x6 then .ok (.shr (fieldX w) (fieldY w))
  else if fieldN w = 0x7 then .ok (.subn (fieldX w) (fieldY w))
  else if fieldN w = 0xE then .ok (.shl (fieldX w) (fieldY w))
  else .error .class8

/-- Class E: the sub-selector is the bottom byte (R98). -/
def decodeE (w : Word) : Except DecodeReject Instr :=
  if fieldNN w = 0x9E then .ok (.skp (fieldX w))
  else if fieldNN w = 0xA1 then .ok (.sknp (fieldX w))
  else .error .classE

/-- Class F: the sub-selector is the bottom byte (R99). -/
def decodeF (w : Word) : Except DecodeReject Instr :=
  if fieldNN w = 0x07 then .ok (.ldVxDt (fieldX w))
  else if fieldNN w = 0x0A then .ok (.ldVxK (fieldX w))
  else if fieldNN w = 0x15 then .ok (.ldDtVx (fieldX w))
  else if fieldNN w = 0x18 then .ok (.ldStVx (fieldX w))
  else if fieldNN w = 0x1E then .ok (.addI (fieldX w))
  else if fieldNN w = 0x29 then .ok (.ldF (fieldX w))
  else if fieldNN w = 0x33 then .ok (.ldB (fieldX w))
  else if fieldNN w = 0x55 then .ok (.ldMemFromRegs (fieldX w))
  else if fieldNN w = 0x65 then .ok (.ldRegsFromMem (fieldX w))
  else .error .classF

/-- Classes 5 and 9: a compare of two registers where N is 0 (R100). -/
def decodeCompare (w : Word) (i : Instr) (reject : DecodeReject) : Except DecodeReject Instr :=
  if fieldN w = 0x0 then .ok i else .error reject

/-- The decoder: a pure function of the word (R94), first-level dispatch on the class C (R95). C has 16 values, so what
is left after the other fifteen is class F (R104: every top nibble names a class). -/
def decode (w : Word) : Except DecodeReject Instr :=
  if fieldC w = 0x0 then decode0 w
  else if fieldC w = 0x1 then .ok (.jp (fieldNNN w))
  else if fieldC w = 0x2 then .ok (.call (fieldNNN w))
  else if fieldC w = 0x3 then .ok (.seImm (fieldX w) (fieldNN w))
  else if fieldC w = 0x4 then .ok (.sneImm (fieldX w) (fieldNN w))
  else if fieldC w = 0x5 then decodeCompare w (.seReg (fieldX w) (fieldY w)) .class5
  else if fieldC w = 0x6 then .ok (.ldImm (fieldX w) (fieldNN w))
  else if fieldC w = 0x7 then .ok (.addImm (fieldX w) (fieldNN w))
  else if fieldC w = 0x8 then decode8 w
  else if fieldC w = 0x9 then decodeCompare w (.sneReg (fieldX w) (fieldY w)) .class9
  else if fieldC w = 0xA then .ok (.ldI (fieldNNN w))
  else if fieldC w = 0xB then .ok (.jpV0 (fieldNNN w))
  else if fieldC w = 0xC then .ok (.rnd (fieldX w) (fieldNN w))
  else if fieldC w = 0xD then .ok (.drw (fieldX w) (fieldY w) (fieldN w))
  else if fieldC w = 0xE then decodeE w
  else decodeF w

/-- The word two consecutive bytes hold, big-endian: the byte at the lower address is w[15:8] (R66). -/
def packWord (hi lo : Byte) : Word := hi ++ lo

/-- The byte of a word at the lower address (R66). -/
def highByte (w : Word) : Byte := w.extractLsb' 8 8
/-- The byte of a word at the higher address (R66). -/
def lowByte (w : Word) : Byte := w.extractLsb' 0 8

/-- Decoding from bytes: the instruction at the head of the list and the bytes after it (R66, R90). -/
def decodeBytes : List Byte → Except DecodeReject (Instr × List Byte)
  | hi :: lo :: rest => (decode (packWord hi lo)).map fun i => (i, rest)
  | _ => .error .truncated

/-! ## The encoder -/

/-- A register number as the nibble that names it. -/
def regNibble (x : Reg) : Nibble := .ofFin x

/-- Shape NNN of R92. -/
def wordNNN (c : Nibble) (nnn : Imm12) : Word := c ++ nnn
/-- Shapes XNN and XSS of R92. -/
def wordXNN (c : Nibble) (x : Reg) (nn : Byte) : Word := c ++ (regNibble x ++ nn)
/-- Shapes XY0, XYS and XYN of R92. -/
def wordXYN (c : Nibble) (x y : Reg) (n : Nibble) : Word := c ++ (regNibble x ++ (regNibble y ++ n))

/-- The word of an instruction, from the patterns of R101. -/
def encode : Instr → Word
  | .cls => 0x00E0
  | .ret => 0x00EE
  | .jp nnn => wordNNN 0x1 nnn
  | .call nnn => wordNNN 0x2 nnn
  | .seImm x nn => wordXNN 0x3 x nn
  | .sneImm x nn => wordXNN 0x4 x nn
  | .seReg x y => wordXYN 0x5 x y 0x0
  | .sneReg x y => wordXYN 0x9 x y 0x0
  | .ldImm x nn => wordXNN 0x6 x nn
  | .addImm x nn => wordXNN 0x7 x nn
  | .ldReg x y => wordXYN 0x8 x y 0x0
  | .or x y => wordXYN 0x8 x y 0x1
  | .and x y => wordXYN 0x8 x y 0x2
  | .xor x y => wordXYN 0x8 x y 0x3
  | .addReg x y => wordXYN 0x8 x y 0x4
  | .sub x y => wordXYN 0x8 x y 0x5
  | .subn x y => wordXYN 0x8 x y 0x7
  | .shr x y => wordXYN 0x8 x y 0x6
  | .shl x y => wordXYN 0x8 x y 0xE
  | .ldI nnn => wordNNN 0xA nnn
  | .jpV0 nnn => wordNNN 0xB nnn
  | .rnd x nn => wordXNN 0xC x nn
  | .drw x y n => wordXYN 0xD x y n
  | .skp x => wordXNN 0xE x 0x9E
  | .sknp x => wordXNN 0xE x 0xA1
  | .ldVxDt x => wordXNN 0xF x 0x07
  | .ldDtVx x => wordXNN 0xF x 0x15
  | .ldStVx x => wordXNN 0xF x 0x18
  | .addI x => wordXNN 0xF x 0x1E
  | .ldF x => wordXNN 0xF x 0x29
  | .ldB x => wordXNN 0xF x 0x33
  | .ldMemFromRegs x => wordXNN 0xF x 0x55
  | .ldRegsFromMem x => wordXNN 0xF x 0x65
  | .ldVxK x => wordXNN 0xF x 0x0A

/-- The bytes of an instruction as memory holds them, the first at the lowest address (R66). -/
def encodeBytes (i : Instr) : List Byte := [highByte (encode i), lowByte (encode i)]

/-- The instruction the decoder reads from a table word: its `nbits` bits, every bit above them 0, laid out as memory
holds them (one word, big-endian) and given to the decoder. -/
def decodeTableWord (nbits w : Nat) : Option Instr :=
  let word : Word := BitVec.ofNat 16 (w % 2 ^ nbits)
  match decodeBytes [highByte word, lowByte word] with
  | .ok (i, _) => some i
  | .error _ => none

end Sys2Proof
end

