-- ==== Sys2Proof/Config.lean ====
section
/-! DEFINITION. What is fixed for the machine (the parameters of 00_scope.md R7) and its one free value, the random byte. -/

namespace Sys2Proof.Config

/-- `MEM_SIZE` (R7): valid addresses are 0x000..0xFFF. -/
abbrev memSize : Nat := 0x1000

/-- `PROG_BASE` (R7, R73): where program load writes the first image byte. -/
abbrev progBase : Nat := 0x200

/-- The largest image that fits, 0x200..0xFFF (R74). -/
abbrev maxImage : Nat := 3584

/-- `STACK_CAP` (R7, R32). -/
abbrev stackCap : Nat := 16

/-- `FONT_BASE` (R7, R35): the first byte of the font. -/
abbrev fontBase : Nat := 0x50

/-- One past the last byte of the font, 0x9F (R35). -/
abbrev fontEnd : Nat := 0xA0

/-- `GLYPH_SIZE` (R7, R35): the bytes of one glyph. -/
abbrev glyphSize : Nat := 5

/-- `KEYWAIT_SCAN` (R7, R255): the keys block-on-key scans, in the order it scans them; 0xF is not among them. -/
abbrev keyScan : List Reg := [0x0, 0x1, 0x2, 0x3, 0x4, 0x5, 0x6, 0x7, 0x8, 0x9, 0xA, 0xB, 0xC, 0xD, 0xE]

/-- The free random bytes (R40, R182; decision D20): `rnd k` is the byte the environment supplies to the k-th random
instruction executed. It has no body, so every claim holds for every byte (log entry 1). -/
opaque rnd : Nat → Byte

end Sys2Proof.Config
end

