-- ==== Sys2Proof/Machine/State.lean ====
section
/-! DEFINITION. The machine's state, all of 10_state.md R20, as plain data; the reasons a step can stop; and the state
right after reset (10_state.md R45, 70_reset_and_hazards.md R300). -/

namespace Sys2Proof.Machine

/-- Memory as the cells that differ from what the machine's memory holds at construction (20_memory.md R62), addresses
rising: what an unlisted address reads as is `Memory.initial` (Machine/Memory.lean). -/
abbrev Memory := List Host.Cell

/-- The framebuffer (R37): 32 rows of 64 cells, true = set; `fb[y][x]` is the spec's `FB[x][y]`. -/
abbrev Framebuffer := Vector (Vector Bool 64) 32

/-- The spec's fault causes (60_exceptions.md R271). The spec describes the whole effect of a fault (40_cycle.md R128:
the cycle commits nothing, `halted` is set and the fault is recorded), so a fault is TAKEN: the step answers a next
state whose fault record holds the cause, and no step of this model ends in `Outcome.fault` (log entry 2). -/
inductive Fault where
  /-- Code 1: the word matches no operation. Raised by decode, in any cycle (R272). Safe: the core halts. -/
  | decodeFailure
  /-- Code 2: a call at capacity. Raised by CALL (R273). Safe: the core halts. -/
  | stackOverflow
  /-- Code 3: a return on an empty stack. Raised by RET (R274). Safe: the core halts. -/
  | stackUnderflow
  /-- Code 4: an address above 0xFFF. Raised by fetch, DRW, LD_B, LD_mem_from_regs, LD_regs_from_mem (R275). Safe: the
  core halts. -/
  | memoryOutOfRange
  /-- Code 5: a key skip with V[X] > 0xF. Raised by SKP and SKNP (R279). Safe: the core halts. -/
  | keypadIndexOutOfRange
  /-- Code 6: a write into 0x050..0x09F. Raised by LD_B and LD_mem_from_regs (R280). Safe: the core halts. -/
  | fontRegionWrite
  deriving DecidableEq, Repr

/-- What the model does not run. No step answers either: every instruction of the table has its meaning. -/
inductive Refusal where
  /-- An instruction without a meaning yet, by its mnemonic. Raised by no arm of `exec`. Safe. -/
  | notModelled (mnemonic : String)
  /-- A program image above 3584 bytes: the launch is not admitted (20_memory.md R74). Raised by the host's program load
  (Machine/HostPort.lean) alone, never by a step. Safe. -/
  | imageTooLarge
  deriving DecidableEq, Repr

/-- The fault record (R43, R277): the cause, the address the faulting instruction was fetched from, and its word, none
if the fetch itself faulted. -/
structure FaultRecord where
  cause : Fault
  pc : Word
  word : Option Word
  deriving DecidableEq, Repr

/-- The architectural state (R20), and last the model's own count of random bytes consumed. -/
structure State where
  /-- `MEM`, 4096 bytes (R34). -/
  mem : Memory
  /-- `V[0..15]` (R21). -/
  v : Vector Byte 16
  /-- `I`, the index register (R28). -/
  i : Word
  /-- `pc` (R25). -/
  pc : Word
  /-- The call stack, newest entry last, at most 16 entries (R10, R32). -/
  stack : List Word
  /-- `DT`, the delay timer (R30). -/
  dt : Byte
  /-- `ST`, the sound timer (R31). -/
  st : Byte
  /-- `FB` (R37). -/
  fb : Framebuffer
  /-- `KEY`, true = down; owned by the host (R39). -/
  key : Vector Bool 16
  /-- The core has stopped on a fault (R43). -/
  halted : Bool
  /-- The fault record, none while no fault is recorded (R43). -/
  fault : Option FaultRecord
  /-- The MODEL's own: how many random bytes have been consumed; it picks the free byte of R40 (log entry 1). -/
  rndCount : Nat
  deriving DecidableEq, Repr

/-- The machine right after reset, before any program load (R45, R300): the font in memory and every other byte 0 (no
cell listed), pc 0x200, and the values of decision D16 for the rest (log entries 1, 3, 6). -/
def State.reset : State where
  mem := []
  v := Vector.replicate 16 0
  i := 0
  pc := 0x200
  stack := []
  dt := 0
  st := 0
  fb := Vector.replicate 32 (Vector.replicate 64 false)
  key := Vector.replicate 16 false
  halted := false
  fault := none
  rndCount := 0

/-- The answer of a meaning and of a step. -/
abbrev Result := Host.Outcome State Fault Refusal

end Sys2Proof.Machine
end

