-- ==== Sys2Proof/Machine/Framebuffer.lean ====
section
/-! DEFINITION. The framebuffer (10_state.md R37): one cell, clearing it, and drawing a sprite on it as the loop of
44_display.md R231 does. -/

namespace Sys2Proof.Machine

/-- `FB[x][y]` (R10, R37). -/
def Framebuffer.cell (fb : Framebuffer) (x : Fin 64) (y : Fin 32) : Bool := (fb.get y).get x

/-- `FB[x][y] <- FB[x][y] xor true` (R231). -/
def Framebuffer.toggle (fb : Framebuffer) (x : Fin 64) (y : Fin 32) : Framebuffer :=
  fb.set y ((fb.get y).set x (!fb.cell x y))

/-- Every cell clear (R230). -/
def Framebuffer.blank : Framebuffer := Vector.replicate 32 (Vector.replicate 64 false)

/-- Column c of a sprite row: bit 7 is column 0 (R232). -/
def spriteBit (row : Byte) (c : Nat) : Bool := row.getLsbD (7 - c)

/-- The column of sprite column c, wrapped (R233). -/
def wrapX (x0 c : Nat) : Fin 64 := Fin.ofNat 64 (x0 + c)
/-- The screen row of sprite row r, wrapped (R233). -/
def wrapY (y0 r : Nat) : Fin 32 := Fin.ofNat 32 (y0 + r)

/-- A draw in progress: the framebuffer, and whether a set cell has been turned off so far. -/
structure Drawing where
  fb : Framebuffer
  hit : Bool
  deriving DecidableEq, Repr

/-- One turn of the inner loop of R231: sprite row r, column c. -/
def drawBit (x0 y0 r : Nat) (row : Byte) (d : Drawing) (c : Nat) : Drawing :=
  if spriteBit row c then
    { fb := d.fb.toggle (wrapX x0 c) (wrapY y0 r), hit := d.hit || d.fb.cell (wrapX x0 c) (wrapY y0 r) }
  else d

/-- The inner loop of R231: the eight columns of sprite row r. -/
def drawRow (x0 y0 r : Nat) (row : Byte) (d : Drawing) : Drawing :=
  (List.range 8).foldl (drawBit x0 y0 r row) d

/-- The outer loop of R231, from sprite row r on. -/
def drawRows (x0 y0 : Nat) : Nat → List Byte → Drawing → Drawing
  | _, [], d => d
  | r, row :: rows, d => drawRows x0 y0 (r + 1) rows (drawRow x0 y0 r row d)

/-- The draw of a sprite at (x0, y0), the flag reset before the loop (R231). -/
def drawSprite (fb : Framebuffer) (x0 y0 : Nat) (rows : List Byte) : Drawing :=
  drawRows x0 y0 0 rows { fb := fb, hit := false }

end Sys2Proof.Machine
end

