-- ==== Sys2Proof/Machine/Memory.lean ====
section
/-! DEFINITION. The 4096 bytes of `MEM` (20_memory.md): what construction leaves in them, the reading and writing of one
byte and of a run of bytes, the canonical form of the list that holds them, and the checks of R64, R65 and R72. -/

namespace Sys2Proof.Machine

/-- Glyphs 0 to 7 of the font (10_state.md R35). -/
def fontLow : List Byte :=
  [0xF0, 0x90, 0x90, 0x90, 0xF0,  0x20, 0x60, 0x20, 0x20, 0x70,
   0xF0, 0x10, 0xF0, 0x80, 0xF0,  0xF0, 0x10, 0xF0, 0x10, 0xF0,
   0x90, 0x90, 0xF0, 0x10, 0x10,  0xF0, 0x80, 0xF0, 0x10, 0xF0,
   0xF0, 0x80, 0xF0, 0x90, 0xF0,  0xF0, 0x10, 0x20, 0x40, 0x40]

/-- Glyphs 8 to F of the font (10_state.md R35). -/
def fontHigh : List Byte :=
  [0xF0, 0x90, 0xF0, 0x90, 0xF0,  0xF0, 0x90, 0xF0, 0x10, 0xF0,
   0xF0, 0x90, 0xF0, 0x90, 0x90,  0xE0, 0x90, 0xE0, 0x90, 0xE0,
   0xF0, 0x80, 0x80, 0x80, 0xF0,  0xE0, 0x90, 0x90, 0x90, 0xE0,
   0xF0, 0x80, 0xF0, 0x80, 0xF0,  0xF0, 0x80, 0xF0, 0x80, 0x80]

/-- The 80 bytes of the font (R35; GK2, decision D17; log entry 4). -/
def font : List Byte := fontLow ++ fontHigh

/-- The address lies in the font region 0x050..0x09F (R36). -/
def inFont (a : Nat) : Bool := Config.fontBase ≤ a && a < Config.fontEnd

/-- What construction leaves at an address, and so what an unlisted address reads as: the font in 0x050..0x09F and
0x00 elsewhere (R45, R62, R300). -/
def Memory.initial (a : Nat) : Byte :=
  if inFont a then font.getD (a - Config.fontBase) 0 else 0

/-- The cell listed for an address, if there is one. -/
def Memory.lookup : Memory → Nat → Option Byte
  | [], _ => none
  | (k, b) :: m, a => if k = a then some b else Memory.lookup m a

/-- `MEM[a]`: the byte at an address (R64). -/
def Memory.read (m : Memory) (a : Nat) : Byte := (m.lookup a).getD (Memory.initial a)

/-- Lists a cell in its place. -/
def Memory.insert : Memory → Nat → Byte → Memory
  | [], a, b => [(a, b)]
  | (k, c) :: m, a, b =>
    if a < k then (a, b) :: (k, c) :: m
    else if a = k then (a, b) :: m
    else (k, c) :: Memory.insert m a b

/-- Takes an address's cell out of the list. -/
def Memory.erase (m : Memory) (a : Nat) : Memory := m.filter fun c => c.1 != a

/-- `MEM[a] <- b` (R65): a byte equal to what construction left needs no cell. -/
def Memory.write (m : Memory) (a : Nat) (b : Byte) : Memory :=
  if b = Memory.initial a then m.erase a else m.insert a b

/-- The n bytes at ascending addresses a, a+1, ... (R67). -/
def Memory.readBytes (m : Memory) (a n : Nat) : List Byte := (List.range n).map fun k => m.read (a + k)

/-- Writes bytes one after another at ascending addresses a, a+1, ... (R67). -/
def Memory.writeBytes (m : Memory) (a : Nat) : List Byte → Memory
  | [] => m
  | b :: bs => (m.write a b).writeBytes (a + 1) bs

/-- The canonical form: addresses strictly rising, all below 0x1000, no cell equal to what it would read as unlisted. -/
abbrev Memory.wf (m : Memory) : Prop :=
  m.Pairwise (fun c d => c.1 < d.1) ∧ ∀ c ∈ m, c.1 < Config.memSize ∧ c.2 ≠ Memory.initial c.1

/-- The fault `MemRead(a, 1)` raises, if any (R64). -/
def readFault (a : Nat) : Option Fault :=
  if a > 0xFFF then some .memoryOutOfRange else none

/-- The fault `MemWrite(a, 1, v)` raises, if any (R65). -/
def writeFault (a : Nat) : Option Fault :=
  if a > 0xFFF then some .memoryOutOfRange
  else if inFont a then some .fontRegionWrite
  else none

/-- The check of a whole range a .. a+n-1 before any effect: the fault of the lowest failing address (R72). -/
def rangeFault (check : Nat → Option Fault) (a n : Nat) : Option Fault :=
  (List.range n).findSome? fun k => check (a + k)

end Sys2Proof.Machine
end

