-- ==== Sys2Proof/Machine/Ops.lean ====
section
/-! DEFINITION. The named operations over the state that the meanings and the step share: reading and writing each
register, the call stack, the skip, the timer tick, fetch, and taking a fault. -/

namespace Sys2Proof.Machine

/-! ## Registers and fields -/

/-- `V[x]` (R10, R22). -/
def State.getV (s : State) (x : Reg) : Byte := s.v.get x
/-- `V[x] <- b` (R10, R22). -/
def State.setV (s : State) (x : Reg) (b : Byte) : State := { s with v := s.v.set x b }
/-- All of `V` at once: what register-load leaves (R205). -/
def State.setRegs (s : State) (v : Vector Byte 16) : State := { s with v := v }
/-- `I <- a` (R28). -/
def State.setI (s : State) (a : Word) : State := { s with i := a }
/-- `pc <- a` (R26). -/
def State.setPc (s : State) (a : Word) : State := { s with pc := a }
/-- `DT <- b` (R30). -/
def State.setDT (s : State) (b : Byte) : State := { s with dt := b }
/-- `ST <- b` (R31). -/
def State.setST (s : State) (b : Byte) : State := { s with st := b }
/-- The call stack as a whole (R32). -/
def State.setStack (s : State) (l : List Word) : State := { s with stack := l }
/-- The memory as a whole (R34). -/
def State.setMem (s : State) (m : Memory) : State := { s with mem := m }
/-- The framebuffer as a whole (R37). -/
def State.setFb (s : State) (fb : Framebuffer) : State := { s with fb := fb }
/-- One random byte is consumed (R40): the next random instruction gets the next free byte (log entry 1). -/
def State.useRnd (s : State) : State := { s with rndCount := s.rndCount + 1 }

/-- VF, the flag register (R23). -/
abbrev regF : Reg := 0xF

/-- The two writes of a flag-setting operation, in the order of 42_alu.md R170: the result, then the flag. -/
def State.setVThenFlag (s : State) (x : Reg) (r f : Byte) : State := (s.setV x r).setV regF f

/-- The byte at an address of memory (R64). -/
def State.readByte (s : State) (a : Nat) : Byte := s.mem.read a

/-! ## The call stack (10_state.md R32) -/

/-- `stack.push(a)`: the newest entry is last. -/
def State.push (s : State) (a : Word) : State := s.setStack (s.stack ++ [a])

/-! ## Skips (41_flow.md R148) -/

/-- `if b: pc <- pc + 2`. -/
def State.skipIf (s : State) (b : Bool) : State := if b then s.setPc (s.pc + 2) else s

/-! ## Fetch (40_cycle.md R121, R122) -/

/-- The word at pc, big-endian, or the fault of its range check (R121). -/
def State.fetch (s : State) : Except Fault Word :=
  match rangeFault readFault s.pc.toNat 2 with
  | some c => .error c
  | none => .ok (packWord (s.readByte s.pc.toNat) (s.readByte (s.pc.toNat + 1)))

/-- `pc <- a + 2`, which a successful fetch does before decode and execute (R122). -/
def State.advance (s : State) : State := s.setPc (s.pc + 2)

/-! ## The timer tick (40_cycle.md R126) -/

/-- One timer's tick: `if t > 0: t <- t - 1`. -/
def tickTimer (t : Byte) : Byte := if t = 0 then 0 else t - 1

/-- The tick of both timers. -/
def State.tick (s : State) : State := { s with dt := tickTimer s.dt, st := tickTimer s.st }

/-- The end of a cycle whose execute stage left `s`: the tick, unless the execute stage raised a fault (R127, R128). -/
def State.endCycle (s : State) : State := if s.halted then s else s.tick

/-- The end of a cycle, on what the execute stage answered. -/
def endOfCycle : Result → Result
  | .next t => .next t.endCycle
  | .fault c => .fault c
  | .refused r => .refused r

/-! ## Taking a fault (40_cycle.md R128; 60_exceptions.md R276, R277) -/

/-- Taking a fault, from the state at the start of the cycle: nothing of the cycle is committed, `halted` is set, and
the record holds the cause, the address of the faulting instruction and its word (none if the fetch faulted). There is
no return from a fault but reset (R270, R303). -/
def State.takeFault (s : State) (c : Fault) (w : Option Word) : State :=
  { s with halted := true, fault := some { cause := c, pc := s.pc, word := w } }

/-- `raise c` in the execute stage of instruction `i`. Every instruction checks its condition before its first write
(R276), so all that the cycle has done is fetch's `pc + 2`: it is undone and the fault is taken. The word recorded is the
word of the instruction (log entry 10). -/
def raise (c : Fault) (i : Instr) (s : State) : Result :=
  .next ((s.setPc (s.pc - 2)).takeFault c (some (encode i)))

/-! ## Runs of bytes at I (43_index_memory.md R207) -/

/-- Checks `I .. I+n-1` for MemWrite, then writes the bytes there (R72, R203, R204). -/
def storeAtI (i : Instr) (bs : List Byte) (s : State) : Result :=
  match rangeFault writeFault s.i.toNat bs.length with
  | some c => raise c i s
  | none => .next (s.setMem (s.mem.writeBytes s.i.toNat bs))

/-- Checks `I .. I+n-1` for MemRead, then goes on with the bytes there (R72, R205, R231). -/
def loadAtI (i : Instr) (n : Nat) (s : State) (k : List Byte → State) : Result :=
  match rangeFault readFault s.i.toNat n with
  | some c => raise c i s
  | none => .next (k (s.mem.readBytes s.i.toNat n))

end Sys2Proof.Machine
end

