-- ==== Sys2Proof/Machine/Flags.lean ====
section
/-! DEFINITION. The five values VF can be given (10_state.md R41), each computed from the operands before the
operation. -/

namespace Sys2Proof.Machine

/-- Add-reg: 1 if the unsigned sum exceeds 255, else 0 (R177). -/
def carryFlag (a b : Byte) : Byte := b2i (a.toNat + b.toNat > 255)

/-- `a - b` without borrow: 1 if a ≥ b, else 0 (R178; R180 with the operands exchanged). -/
def noBorrowFlag (a b : Byte) : Byte := b2i (a.toNat ≥ b.toNat)

/-- Shift-right: the bit shifted out, `a & 1` (R179). -/
def shiftRightFlag (a : Byte) : Byte := a &&& 1

/-- Shift-left: the bit shifted out, `(a >> 7) & 1` (R181). -/
def shiftLeftFlag (a : Byte) : Byte := (a >>> 7) &&& 1

/-- Draw: 1 if a set cell was turned off, else 0 (R235). -/
def collisionFlag (hit : Bool) : Byte := b2i hit

end Sys2Proof.Machine
end

