-- ==== Sys2Proof/Machine/Operands.lean ====
section
/-! DEFINITION. The operand forms (30_encoding.md R93; 43_index_memory.md R207): immediates widened with zeros, the jump
and index targets, the key a register names, the key block-on-key finds, decimal digits and runs of registers. -/

namespace Sys2Proof.Machine

/-- `zext_16(NNN)` (R93). -/
def addrOf (nnn : Imm12) : Word := nnn.setWidth 16

/-- `zext_16(NNN) + zext_16(V[0])`, not masked (R147). -/
def offsetTarget (s : State) (nnn : Imm12) : Word := addrOf nnn + (s.getV 0).setWidth 16

/-- `(I + zext_16(V[X])) mod 2^16` (R201). -/
def indexSum (s : State) (x : Reg) : Word := s.i + (s.getV x).setWidth 16

/-- `0x050 + 5 * V[X]`, not masked (R202). -/
def glyphAddress (b : Byte) : Word := BitVec.ofNat 16 (Config.fontBase + Config.glyphSize * b.toNat)

/-- The level of the key a register's value names, none where it names no key: above 0xF (R250, R256). -/
def keyLevel (s : State) (k : Byte) : Option Bool :=
  if h : k.toNat < 16 then some (s.key.get ⟨k.toNat, h⟩) else none

/-- The first key down of 0x0 .. 0xE in ascending order (R255). -/
def firstKeyDown (s : State) : Option Reg := Config.keyScan.find? fun k => s.key.get k

/-- The hundreds, tens and ones of a byte (R203). -/
def bcdDigits (b : Byte) : List Byte :=
  [BitVec.ofNat 8 (b.toNat / 100), BitVec.ofNat 8 (b.toNat / 10 % 10), BitVec.ofNat 8 (b.toNat % 10)]

/-- `V[0], ..., V[X]` in order (R204). -/
def regPrefix (s : State) (x : Reg) : List Byte := s.v.toList.take (x.val + 1)

/-- Writes bytes to registers k, k+1, ... in order (R205). -/
def putRegs (v : Vector Byte 16) (k : Nat) : List Byte → Vector Byte 16
  | [] => v
  | b :: bs => putRegs (v.setIfInBounds k b) (k + 1) bs

/-- The start column of a draw, `V[X] mod 64` (R231). -/
def drawX (s : State) (x : Reg) : Nat := (s.getV x).toNat % 64
/-- The start row of a draw, `V[Y] mod 32` (R231). -/
def drawY (s : State) (y : Reg) : Nat := (s.getV y).toNat % 32

end Sys2Proof.Machine
end

