-- ==== Sys2Proof/Machine/Alu.lean ====
section
/-! DEFINITION. Register arithmetic and logic (42_alu.md). Operands are read first; the result is written, then the flag
(R170). -/

namespace Sys2Proof.Machine

/-- LD Vx, nn (R171). -/
def execLdImm (x : Reg) (nn : Byte) (s : State) : Result := .next (s.setV x nn)

/-- ADD Vx, nn (R172): no flag. -/
def execAddImm (x : Reg) (nn : Byte) (s : State) : Result := .next (s.setV x (s.getV x + nn))

/-- LD Vx, Vy (R173). -/
def execLdReg (x y : Reg) (s : State) : Result := .next (s.setV x (s.getV y))

/-- OR Vx, Vy (R174): no flag. -/
def execOr (x y : Reg) (s : State) : Result := .next (s.setV x (s.getV x ||| s.getV y))

/-- AND Vx, Vy (R175): no flag. -/
def execAnd (x y : Reg) (s : State) : Result := .next (s.setV x (s.getV x &&& s.getV y))

/-- XOR Vx, Vy (R176): no flag. -/
def execXor (x y : Reg) (s : State) : Result := .next (s.setV x (s.getV x ^^^ s.getV y))

/-- ADD Vx, Vy (R177). -/
def execAddReg (x y : Reg) (s : State) : Result :=
  .next (s.setVThenFlag x (s.getV x + s.getV y) (carryFlag (s.getV x) (s.getV y)))

/-- SUB Vx, Vy (R178). -/
def execSub (x y : Reg) (s : State) : Result :=
  .next (s.setVThenFlag x (s.getV x - s.getV y) (noBorrowFlag (s.getV x) (s.getV y)))

/-- SUBN Vx, Vy (R180). -/
def execSubn (x y : Reg) (s : State) : Result :=
  .next (s.setVThenFlag x (s.getV y - s.getV x) (noBorrowFlag (s.getV y) (s.getV x)))

/-- SHR Vx (R179); the Y field is not used (R108). -/
def execShr (x : Reg) (s : State) : Result :=
  .next (s.setVThenFlag x (s.getV x >>> 1) (shiftRightFlag (s.getV x)))

/-- SHL Vx (R181); the Y field is not used (R108). -/
def execShl (x : Reg) (s : State) : Result :=
  .next (s.setVThenFlag x (s.getV x <<< 1) (shiftLeftFlag (s.getV x)))

/-- RND Vx, nn (R182): the cycle's random byte is the free value `Config.rnd`. -/
def execRnd (x : Reg) (nn : Byte) (s : State) : Result :=
  .next ((s.setV x (Config.rnd s.rndCount &&& nn)).useRnd)

end Sys2Proof.Machine
end

