-- ==== Sys2Proof/Machine/Display.lean ====
section
/-! DEFINITION. Clear-screen and draw (44_display.md). -/

namespace Sys2Proof.Machine

/-- CLS (R230). -/
def execCls (s : State) : Result := .next (s.setFb Framebuffer.blank)

/-- The state after a draw of the sprite rows read (R231): coordinates and sprite bytes are those before VF is written
(R234). -/
def drawn (x y : Reg) (s : State) (rows : List Byte) : State :=
  (s.setFb (drawSprite s.fb (drawX s x) (drawY s y) rows).fb).setV regF
    (collisionFlag (drawSprite s.fb (drawX s x) (drawY s y) rows).hit)

/-- DRW Vx, Vy, n (R231). -/
def execDrw (x y : Reg) (n : Nibble) (s : State) : Result :=
  loadAtI (.drw x y n) n.toNat s (drawn x y s)

end Sys2Proof.Machine
end

