-- ==== Sys2Proof/Machine/Flow.lean ====
section
/-! DEFINITION. Control transfer (41_flow.md). Each meaning is the execute stage: on entry `pc` is the address after the
instruction (R122). -/

namespace Sys2Proof.Machine

/-- RET (R140). -/
def execRet (s : State) : Result :=
  match s.stack.getLast? with
  | none => raise .stackUnderflow .ret s
  | some a => .next ((s.setStack s.stack.dropLast).setPc a)

/-- JP nnn (R141). -/
def execJp (nnn : Imm12) (s : State) : Result := .next (s.setPc (addrOf nnn))

/-- CALL nnn (R142). -/
def execCall (nnn : Imm12) (s : State) : Result :=
  if Config.stackCap ≤ s.stack.length then raise .stackOverflow (.call nnn) s
  else .next ((s.push s.pc).setPc (addrOf nnn))

/-- SE Vx, nn (R143). -/
def execSeImm (x : Reg) (nn : Byte) (s : State) : Result := .next (s.skipIf (s.getV x == nn))

/-- SNE Vx, nn (R144). -/
def execSneImm (x : Reg) (nn : Byte) (s : State) : Result := .next (s.skipIf (s.getV x != nn))

/-- SE Vx, Vy (R145). -/
def execSeReg (x y : Reg) (s : State) : Result := .next (s.skipIf (s.getV x == s.getV y))

/-- SNE Vx, Vy (R146). -/
def execSneReg (x y : Reg) (s : State) : Result := .next (s.skipIf (s.getV x != s.getV y))

/-- JP V0, nnn (R147). -/
def execJpV0 (nnn : Imm12) (s : State) : Result := .next (s.setPc (offsetTarget s nnn))

end Sys2Proof.Machine
end

