-- ==== Sys2Proof/Machine/IndexMem.lean ====
section
/-! DEFINITION. The index register and the memory operations (43_index_memory.md). None changes `I` as a side effect
(R206). -/

namespace Sys2Proof.Machine

/-- LD I, nnn (R200). -/
def execLdI (nnn : Imm12) (s : State) : Result := .next (s.setI (addrOf nnn))

/-- ADD I, Vx (R201): no flag. -/
def execAddI (x : Reg) (s : State) : Result := .next (s.setI (indexSum s x))

/-- LD F, Vx (R202). -/
def execLdF (x : Reg) (s : State) : Result := .next (s.setI (glyphAddress (s.getV x)))

/-- LD B, Vx (R203). -/
def execLdB (x : Reg) (s : State) : Result := storeAtI (.ldB x) (bcdDigits (s.getV x)) s

/-- LD [I], Vx (R204). -/
def execLdMemFromRegs (x : Reg) (s : State) : Result := storeAtI (.ldMemFromRegs x) (regPrefix s x) s

/-- LD Vx, [I] (R205). -/
def execLdRegsFromMem (x : Reg) (s : State) : Result :=
  loadAtI (.ldRegsFromMem x) (x.val + 1) s fun bs => s.setRegs (putRegs s.v 0 bs)

end Sys2Proof.Machine
end

