-- ==== Sys2Proof/Machine/InputTimers.lean ====
section
/-! DEFINITION. The keypad and timer operations (45_input_timers.md). -/

namespace Sys2Proof.Machine

/-- SKP Vx (R250). -/
def execSkp (x : Reg) (s : State) : Result :=
  match keyLevel s (s.getV x) with
  | none => raise .keypadIndexOutOfRange (.skp x) s
  | some down => .next (s.skipIf down)

/-- SKNP Vx (R251). -/
def execSknp (x : Reg) (s : State) : Result :=
  match keyLevel s (s.getV x) with
  | none => raise .keypadIndexOutOfRange (.sknp x) s
  | some down => .next (s.skipIf (!down))

/-- LD Vx, DT (R252): DT as it is before this cycle's tick. -/
def execLdVxDt (x : Reg) (s : State) : Result := .next (s.setV x s.dt)

/-- LD DT, Vx (R253). -/
def execLdDtVx (x : Reg) (s : State) : Result := .next (s.setDT (s.getV x))

/-- LD ST, Vx (R254). -/
def execLdStVx (x : Reg) (s : State) : Result := .next (s.setST (s.getV x))

/-- LD Vx, K (R255): the first key down is stored; with none, `pc <- pc - 2`, so that the same word is fetched in the
next cycle. -/
def execLdVxK (x : Reg) (s : State) : Result :=
  match firstKeyDown s with
  | some k => .next (s.setV x (BitVec.ofNat 8 k.val))
  | none => .next (s.setPc (s.pc - 2))

end Sys2Proof.Machine
end

