-- ==== Sys2Proof/Machine/Step.lean ====
section
/-! DEFINITION. One step is one invocation of the cycle driver (40_cycle.md R120, R129): fetch, pc + 2, decode, execute,
tick; a fault in any stage is taken, and a halted core changes nothing. -/

namespace Sys2Proof.Machine

/-- `Cycle(rnd)` of R129. -/
def step (s : State) : Host.Outcome State Fault Refusal :=
  if s.halted then .next s
  else
    match s.fetch with
    | .error c => .next (s.takeFault c none)
    | .ok w =>
      match decode w with
      | .error _ => .next (s.takeFault .decodeFailure (some w))
      | .ok i => endOfCycle (exec i s.advance)

/-- The state with a table word stored at pc, high byte first, where the next step fetches it (R66, R121); unchanged
where no word can be fetched at pc (R123). It stands for the host's program load (log entry 8). -/
def State.withFetchWord (s : State) (nbits w : Nat) : State :=
  let word : Word := BitVec.ofNat 16 (w % 2 ^ nbits)
  if s.pc.toNat + 1 < Config.memSize then
    s.setMem (s.mem.writeBytes s.pc.toNat [highByte word, lowByte word])
  else s

end Sys2Proof.Machine
end

