-- ==== Sys2Proof/Machine/HostPort.lean ====
section
/-! DEFINITION. What the host can do to the core (10_state.md R46 to R48): construct it, load a program, set and clear
keys, invoke cycles, and read its outputs. The step never calls anything of this file. -/

namespace Sys2Proof.Machine

/-! ## Inputs -/

/-- The `reset` input (R300): construction. The keypad is the host's and keeps its levels (R303); the count of random
bytes is the model's own and goes on, so that a run after a reset gets fresh free bytes. -/
def State.construct (s : State) : State := { State.reset with key := s.key, rndCount := s.rndCount }

/-- Program load (R73, R301): the image, verbatim, from 0x200 upward, and no other state changed. An image above 3584
bytes is not admitted (R74). -/
def State.loadProgram (s : State) (image : List Byte) : Result :=
  if image.length ≤ Config.maxImage then .next (s.setMem (s.mem.writeBytes Config.progBase image))
  else .refused .imageTooLarge

/-- Construction, then load: the only way to a core that is about to run its first cycle, since a load may come only
between a reset and the first cycle (R48, R302). -/
def State.launch (s : State) (image : List Byte) : Result := s.construct.loadProgram image

/-- Keypad write (R39, R286): the host sets or clears one key, between cycles. -/
def State.setKey (s : State) (k : Reg) (down : Bool) : State := { s with key := s.key.set k down }

/-- What the host can do to the core between two cycles, and the cycle itself (R46). -/
inductive HostEvent where
  /-- Invoke the cycle driver once (R120). -/
  | cycle
  /-- Set (true) or clear (false) a key (R286). -/
  | keypad (k : Reg) (down : Bool)
  /-- Reset the core and load a program image (R300, R301, R303). -/
  | launch (image : List Byte)
  deriving DecidableEq, Repr

/-- The effect of one event. -/
def hostStep (s : State) : HostEvent → Result
  | .cycle => step s
  | .keypad k down => .next (s.setKey k down)
  | .launch image => s.launch image

/-- A sequence of events, one after another on the one timeline the core and the host share (R48, R131). -/
def hostRun (s : State) : List HostEvent → Result
  | [] => .next s
  | e :: es =>
    match hostStep s e with
    | .next t => hostRun t es
    | .fault c => .fault c
    | .refused r => .refused r

/-! ## Outputs (R47) -/

/-- `fb_pixel`: the cell of linear index y·64 + x, presented as 0xFF (set) or 0x00 (clear) (R37, R38). -/
def State.fbPixel (s : State) (k : Fin 2048) : Byte :=
  if s.fb.cell ⟨k.val % 64, Nat.mod_lt _ (by decide)⟩ ⟨k.val / 64, by omega⟩ then 0xFF else 0x00

/-- `sound_timer` (R31). -/
def State.soundTimer (s : State) : Byte := s.st

/-- The code of a fault cause (R271). -/
def Fault.code : Fault → Byte
  | .decodeFailure => 1
  | .stackOverflow => 2
  | .stackUnderflow => 3
  | .memoryOutOfRange => 4
  | .keypadIndexOutOfRange => 5
  | .fontRegionWrite => 6

/-- `fault_cause`: 0 while no fault is recorded (R271). -/
def State.faultCause (s : State) : Byte :=
  match s.fault with
  | none => 0
  | some r => r.cause.code

/-- `fault_pc`: none while no fault is recorded (R277; the spec gives the wires no value then). -/
def State.faultPc (s : State) : Option Word := s.fault.map (·.pc)

/-- `fault_word`: none while no fault is recorded, and for a fetch fault (R277). -/
def State.faultWord (s : State) : Option Word := s.fault.bind (·.word)

end Sys2Proof.Machine
end

