-- ==== Sys2Proof/Safety.lean ====
section
/-! DEFINITION. What the claims speak of: a core that runs, the machine's invariant, and what two states share. -/

namespace Sys2Proof.Machine

/-- The core runs: it has not stopped on a fault (R278). A run is safe as long as its states run: a faulted state is
never a successful end (R270). -/
abbrev State.running (s : State) : Prop := s.halted = false

/-- The font region reads as the font (R35, R36). -/
def State.fontIntact (s : State) : Prop := ∀ a, inFont a = true → s.readByte a = Memory.initial a

/-- The stack never exceeds its capacity (R32), and each entry is an address after a call's word (R27, R142). -/
def State.stackSound (s : State) : Prop :=
  s.stack.length ≤ 16 ∧ ∀ a ∈ s.stack, 2 ≤ a.toNat ∧ a.toNat ≤ 0x1000

/-- The fault record stands exactly while the core is halted, and names the pc the precise fault left (R43, R277). -/
def State.faultSound (s : State) : Prop :=
  (s.halted = true ↔ s.fault ≠ none) ∧ ∀ r, s.fault = some r → r.pc = s.pc

/-- The invariant of the machine. -/
structure State.Inv (s : State) : Prop where
  /-- Memory keeps its canonical form, all of it below 0x1000. -/
  memory : s.mem.wf
  font : s.fontIntact
  stack : s.stackSound
  /-- The largest address any instruction leaves in pc is jump-offset's 0x10FE (R27). -/
  pc : s.pc.toNat ≤ 0x10FE
  fault : s.faultSound

/-- Every byte of memory reads the same in both states. -/
def SameMemory (s t : State) : Prop := ∀ a, t.readByte a = s.readByte a

/-- Every byte of memory outside the n bytes from address a on reads the same in both states. -/
def SameMemoryOutside (a n : Nat) (s t : State) : Prop := ∀ b, (b < a ∨ a + n ≤ b) → t.readByte b = s.readByte b

/-- Every V register but those of `l` holds the same in both states. -/
def SameRegsBut (l : List Reg) (s t : State) : Prop := ∀ z, z ∉ l → t.getV z = s.getV z

/-- Every cell of the framebuffer is the same in both states. -/
def SameScreen (s t : State) : Prop := ∀ x y, t.fb.cell x y = s.fb.cell x y

end Sys2Proof.Machine
end

