-- ==== Sys2Proof/Certificates/Slice0/Obligations.lean ====
section
/-! DEFINITION. The statements about the machine, and the few readings of the rules they are written in. The readings use
the spec's own numbers (natural numbers, divisions, bounds), not the operations the meanings are built from. -/

namespace Sys2Proof.Rules

open Sys2Proof.Machine

/-- The word the two bytes at pc hold (R66, R121). -/
def wordAtPc (s : State) : Word := packWord (s.readByte s.pc.toNat) (s.readByte (s.pc.toNat + 1))

/-- The core runs, a word can be fetched at pc, and it is the word of instruction `i`. -/
abbrev AtInstr (s : State) (i : Instr) : Prop := s.running ∧ s.pc.toNat ≤ 0xFFE ∧ decode (wordAtPc s) = .ok i

/-- The state a faulting cycle leaves: the state before it, halted, with the record made (R128, R277). -/
def haltedWith (s : State) (c : Fault) (w : Option Word) : State :=
  { s with halted := true, fault := some { cause := c, pc := s.pc, word := w } }

/-- The cause of a write to the addresses a .. a + k, k below 16 (R65, R281). -/
def writeCause (a k : Nat) : Option Fault :=
  if 0xFFF < a + k then some .memoryOutOfRange
  else if a ≤ 0x9F ∧ 0x50 ≤ a + k then some .fontRegionWrite
  else none

/-- The fault an instruction raises in its execute stage, by the table of R271; a call at 16 or more entries, the table's
16 in every state with a sound stack (log entry 11). -/
def stopCause (s : State) : Instr → Option Fault
  | .ret => if s.stack.length = 0 then some .stackUnderflow else none
  | .call _ => if 16 ≤ s.stack.length then some .stackOverflow else none
  | .skp x => if 0xF < (s.getV x).toNat then some .keypadIndexOutOfRange else none
  | .sknp x => if 0xF < (s.getV x).toNat then some .keypadIndexOutOfRange else none
  | .ldB _ => writeCause s.i.toNat 2
  | .ldMemFromRegs x => writeCause s.i.toNat x.val
  | .ldRegsFromMem x => if 0xFFF < s.i.toNat + x.val then some .memoryOutOfRange else none
  | .drw _ _ n => if 0 < n.toNat ∧ 0xFFF < s.i.toNat + n.toNat - 1 then some .memoryOutOfRange else none
  | _ => none

/-- The addresses a .. a + n - 1 an instruction stores to, none for one that stores nothing (R69). -/
def storedRange (s : State) : Instr → Option (Nat × Nat)
  | .ldB _ => some (s.i.toNat, 3)
  | .ldMemFromRegs x => some (s.i.toNat, x.val + 1)
  | _ => none

/-- The V registers an instruction may write, its destination and VF as flag (R22). -/
def writtenRegs : Instr → List Reg
  | .ldImm x _ | .addImm x _ | .ldReg x _ | .or x _ | .and x _ | .xor x _ | .rnd x _ | .ldVxDt x | .ldVxK x => [x]
  | .addReg x _ | .sub x _ | .subn x _ | .shr x _ | .shl x _ => [x, 0xF]
  | .drw _ _ _ => [0xF]
  | .ldRegsFromMem x => (List.finRange 16).filter fun z => z ≤ x
  | _ => []

/-- Whether the condition of a skip holds; none for an instruction that is no skip (R143 to R146, R250, R251). -/
def skipHolds (s : State) : Instr → Option Bool
  | .seImm x nn => some (decide ((s.getV x).toNat = nn.toNat))
  | .sneImm x nn => some (decide ((s.getV x).toNat ≠ nn.toNat))
  | .seReg x y => some (decide ((s.getV x).toNat = (s.getV y).toNat))
  | .sneReg x y => some (decide ((s.getV x).toNat ≠ (s.getV y).toNat))
  | .skp x => s.key[(s.getV x).toNat]?
  | .sknp x => s.key[(s.getV x).toNat]?.map (!·)
  | _ => none

/-- Some key of 0x0 .. 0xE is down (R255). -/
def someScannedKey (s : State) : Prop := ∃ k : Reg, k ≠ 0xF ∧ s.key.get k = true

/-- pc after a completed cycle, by R26: fetch adds 2, a skip 2 more (R148), jump, call and jump-offset overwrite it (R141,
R142, R147), return takes the popped address (R140), block-on-key subtracts 2 when no key of 0x0 .. 0xE is down
(R255). -/
def PcAfter (s : State) (p : Nat) : Instr → Prop
  | .jp nnn => p = nnn.toNat
  | .call nnn => p = nnn.toNat
  | .jpV0 nnn => p = nnn.toNat + (s.getV 0).toNat
  | .ret => ∃ a, s.stack.getLast? = some a ∧ p = a.toNat
  | .ldVxK _ => (someScannedKey s → p = s.pc.toNat + 2) ∧ (¬ someScannedKey s → p = s.pc.toNat)
  | i => p = s.pc.toNat + (if skipHolds s i = some true then 4 else 2)

/-- The register and the value the operations without a flag write (R171 to R176). -/
def plainResult (s : State) : Instr → Option (Reg × Nat)
  | .ldImm x nn => some (x, nn.toNat)
  | .addImm x nn => some (x, ((s.getV x).toNat + nn.toNat) % 256)
  | .ldReg x y => some (x, (s.getV y).toNat)
  | .or x y => some (x, (s.getV x).toNat ||| (s.getV y).toNat)
  | .and x y => some (x, (s.getV x).toNat &&& (s.getV y).toNat)
  | .xor x y => some (x, (s.getV x).toNat ^^^ (s.getV y).toNat)
  | _ => none

/-- The register, the result and the flag of the operations that set VF (R177 to R181). -/
def flagResult (s : State) : Instr → Option (Reg × Nat × Nat)
  | .addReg x y =>
    some (x, ((s.getV x).toNat + (s.getV y).toNat) % 256, if 255 < (s.getV x).toNat + (s.getV y).toNat then 1 else 0)
  | .sub x y =>
    some (x, (256 + (s.getV x).toNat - (s.getV y).toNat) % 256, if (s.getV y).toNat ≤ (s.getV x).toNat then 1 else 0)
  | .subn x y =>
    some (x, (256 + (s.getV y).toNat - (s.getV x).toNat) % 256, if (s.getV x).toNat ≤ (s.getV y).toNat then 1 else 0)
  | .shr x _ => some (x, (s.getV x).toNat / 2, (s.getV x).toNat % 2)
  | .shl x _ => some (x, (s.getV x).toNat * 2 % 256, (s.getV x).toNat / 128)
  | _ => none

/-- The sprite of `DRW Vx, Vy, n` covers the cell at column cx, row cy, with a set bit: the cell lies in row r < n and
column c < 8 of the sprite placed with wrap-around, and bit 7 - c of the sprite byte at I + r is set (R231 to R233). -/
def spriteCovers (s : State) (x y : Reg) (n : Nibble) (cx : Fin 64) (cy : Fin 32) : Bool :=
  let c := (cx.val + 64 - (s.getV x).toNat % 64) % 64
  let r := (cy.val + 32 - (s.getV y).toNat % 32) % 32
  decide (r < n.toNat) && decide (c < 8) && (s.readByte (s.i.toNat + r)).getLsbD (7 - c)

/-- The sprite of a draw lies in memory: it has no rows, or its last row is at 0xFFF or below (R231). -/
abbrev SpriteInMemory (s : State) (n : Nibble) : Prop := n.toNat = 0 ∨ s.i.toNat + n.toNat - 1 ≤ 0xFFF

/-- The host event resets the core. -/
def isLaunch : HostEvent → Bool
  | .launch _ => true
  | _ => false

end Sys2Proof.Rules

open Sys2Proof Sys2Proof.Machine Sys2Proof.Rules

/-! ## Encoding -/

/-- Words written out from the patterns of R101, one or more a family. The patterns are the spec's GK1 (log entry 5). -/
def Obligations.SpecWordsDecodeAsWritten : Prop :=
  decode 0x00E0 = .ok .cls ∧ decode 0x00EE = .ok .ret ∧ decode 0x1ABC = .ok (.jp 0xABC) ∧
  decode 0x3342 = .ok (.seImm 3 0x42) ∧ decode 0x9120 = .ok (.sneReg 1 2) ∧ decode 0x7AFF = .ok (.addImm 0xA 0xFF) ∧
  decode 0x8127 = .ok (.subn 1 2) ∧ decode 0x81F6 = .ok (.shr 1 0xF) ∧ decode 0xA123 = .ok (.ldI 0x123) ∧
  decode 0xD125 = .ok (.drw 1 2 5) ∧ decode 0xE1A1 = .ok (.sknp 1) ∧ decode 0xF265 = .ok (.ldRegsFromMem 2)

/-- Decoding an encoded instruction gives it back, from its word and from its bytes with more bytes after them. -/
def Obligations.DecodeOfEncodeIsIdentity : Prop :=
  ∀ (i : Instr) (rest : List Byte), decode (encode i) = .ok i ∧ decodeBytes (encodeBytes i ++ rest) = .ok (i, rest)

/-- The word of a decoded instruction is the word it was decoded from: no bit is dropped, the ignored Y of the shifts
included. So the fault record, made from the instruction, holds the fetched word (log entry 10). -/
def Obligations.EncodeOfDecodedIsTheWord : Prop :=
  ∀ (w : Word) (i : Instr), decode w = .ok i → encode i = w

/-- A word decodes exactly when it matches a row of the opcode map (R101, R104). -/
def Obligations.DecodesExactlyTheMap : Prop :=
  ∀ w : Word, (∃ i, decode w = .ok i) ↔ wordWellFormed w = true

/-- Each word matches at most one row of the map (R102). -/
def Obligations.OpcodeRowsShareNoWord : Prop :=
  ∀ (w : Word) (r q : OpRow), r ∈ opRows → q ∈ opRows → r.matchesWord w = true → q.matchesWord w = true → r = q

/-! ## The cycle -/

/-- A step runs the instruction its bytes decode to, on the state with pc moved past its word; then, unless the execute
stage raised a fault, each timer that is not zero counts down by one (R129). -/
def Obligations.StepRunsDecodedInstruction : Prop :=
  ∀ (s t : State) (i : Instr), AtInstr s i → exec i (s.setPc (s.pc + 2)) = .next t →
    step s = .next (if t.halted = true then t else
      { t with dt := if 0 < t.dt.toNat then t.dt - 1 else t.dt, st := if 0 < t.st.toNat then t.st - 1 else t.st })

/-- A fetch from 0xFFF or above faults with `MemoryOutOfRange` and no word (R121, R123); the precise form of the fault is
the spec's decision D8, its record D10. -/
def Obligations.FetchOutsideMemoryHalts : Prop :=
  ∀ s : State, s.running → 0xFFF ≤ s.pc.toNat → step s = .next (haltedWith s .memoryOutOfRange none)

/-- A word that matches no operation faults with `DecodeFailure` (R124, R272); the precise form is D8, the record D10. -/
def Obligations.UndecodableWordHalts : Prop :=
  ∀ s : State, s.running → s.pc.toNat ≤ 0xFFE → wordWellFormed (wordAtPc s) = false →
    step s = .next (haltedWith s .decodeFailure (some (wordAtPc s)))

/-- A cycle on a halted core changes nothing (R130, decision D27). -/
def Obligations.HaltedCoreNeverChanges : Prop := ∀ s : State, s.halted = true → step s = .next s

/-- Faults are precise: a faulting cycle leaves the state before it, with the core halted and a record that names the
pc of that state (R276, decision D8; R277, decision D10). -/
def Obligations.FaultingCycleCommitsNothing : Prop :=
  ∀ s t : State, s.running → step s = .next t → t.halted = true → ∃ c w, t = haltedWith s c w

/-- The execute stage faults exactly where the table of R271 says, with that cause and the fetched word; elsewhere the
cycle completes and the core goes on (D8 to D12, D28, D29 where the rows, the record and the order are the spec's
decisions). A call faults at 16 or more entries where R271 says 16: with more, which no run reaches, it is the model's
choice (log entry 11); that a fault is a next state is log entry 2. -/
def Obligations.ExecuteFaultsExactlyAsListed : Prop :=
  ∀ (s : State) (i : Instr), AtInstr s i →
    (∀ c, stopCause s i = some c → step s = .next (haltedWith s c (some (wordAtPc s)))) ∧
    (stopCause s i = none → ∃ t, step s = .next t ∧ t.running)

/-- Every step answers a next state: a fault is taken, not answered as a stop (the model's choice, log entry 2). -/
def Obligations.EveryStepAnswersNext : Prop := ∀ s : State, ∃ t, step s = .next t

/-- The tick follows the execute stage (R126): a completed cycle leaves each timer one lower than the execute stage left
it, and never below zero; a timer set in the cycle is ticked in it; get-delay-timer reads DT before the tick. -/
def Obligations.TimersTickAfterExecute : Prop :=
  ∀ (s t : State) (i : Instr), AtInstr s i → step s = .next t → t.running →
    (∀ x, i = .ldDtVx x → t.dt.toNat = (s.getV x).toNat - 1) ∧
    ((∀ x, i ≠ .ldDtVx x) → t.dt.toNat = s.dt.toNat - 1) ∧
    (∀ x, i = .ldStVx x → t.st.toNat = (s.getV x).toNat - 1) ∧
    ((∀ x, i ≠ .ldStVx x) → t.st.toNat = s.st.toNat - 1) ∧
    (∀ x, i = .ldVxDt x → t.getV x = s.dt)

/-- pc after any completed cycle, for every instruction (R26; the targets are those of R140 to R142 and R147, the skips
R148). Where R26 says 'no key' for block-on-key, this says no key of 0x0 .. 0xE, as R255 does. -/
def Obligations.PcAfterEveryInstruction : Prop :=
  ∀ (s t : State) (i : Instr), AtInstr s i → step s = .next t → t.running → PcAfter s t.pc.toNat i

/-- A step keeps the machine's invariant: memory canonical and inside 0x000..0xFFF, the font as it was written, the
stack within its capacity, pc at most 0x10FE, the fault record made exactly when the core is halted. -/
def Obligations.StepKeepsMachineInv : Prop :=
  ∀ s t : State, s.Inv → step s = .next t → t.Inv

/-- The reset state meets the invariant. -/
def Obligations.ResetMeetsMachineInv : Prop := State.reset.Inv

/-- Whatever the host does, cycles, keypad writes and launches in any order, the invariant holds after it. -/
def Obligations.HostRunKeepsMachineInv : Prop :=
  ∀ (es : List HostEvent) (s t : State), s.Inv → hostRun s es = .next t → t.Inv

/-- A halted core stays halted, with the same record, through any cycles and keypad writes: only a launch leaves it
(R278, R303; decisions D25, D27). -/
def Obligations.OnlyLaunchLeavesHalted : Prop :=
  ∀ (es : List HostEvent) (s t : State), s.halted = true → (∀ e ∈ es, isLaunch e = false) → hostRun s es = .next t →
    t.halted = true ∧ t.fault = s.fault

/-- The reset state (R45): pc 0x200 and glyph bytes at 0x50 and 0x9B are the table's; zero registers, timers and memory,
the empty stack, the clear screen and keys up are the spec's decision D16 and the glyph bytes its GK2 (log entries 3, 4,
6). -/
def Obligations.ResetStateAsListed : Prop :=
  State.reset.pc = 0x200 ∧ State.reset.running ∧ State.reset.fault = none ∧
  (∀ x, State.reset.getV x = 0) ∧ State.reset.i = 0 ∧ State.reset.dt = 0 ∧ State.reset.st = 0 ∧ State.reset.stack = [] ∧
  (∀ x y, State.reset.fb.cell x y = false) ∧ (∀ k, State.reset.key.get k = false) ∧
  (∀ a, a < 0x50 ∨ 0x9F < a → State.reset.readByte a = 0) ∧
  (State.reset.mem.readBytes 0x50 5 = [0xF0, 0x90, 0x90, 0x90, 0xF0]) ∧
  (State.reset.mem.readBytes 0x9B 5 = [0xF0, 0x80, 0xF0, 0x80, 0x80])

/-- A launch puts the image, verbatim, at 0x200 and upward on a reset core, the keys as they were; an image above 3584
bytes is not admitted (R73, R300, R301; R74, decision D19; log entry 9). -/
def Obligations.LaunchPlacesImageAt200 : Prop :=
  ∀ (s : State) (image : List Byte),
    (image.length ≤ 3584 → ∃ t, s.launch image = .next t ∧ t.pc = 0x200 ∧ t.running ∧ t.key = s.key ∧
      (∀ k (h : k < image.length), t.readByte (0x200 + k) = image[k]) ∧
      (∀ a, a < 0x200 ∨ 0x200 + image.length ≤ a → t.readByte a = State.reset.readByte a) ∧
      t = { State.reset with mem := t.mem, key := s.key, rndCount := s.rndCount }) ∧
    (3584 < image.length → s.launch image = .refused .imageTooLarge)

/-! ## Control transfer -/

/-- JP and JP V0 write pc and nothing else (R141, R147). -/
def Obligations.JumpsWriteOnlyPc : Prop :=
  ∀ (s : State) (nnn : Imm12),
    (∃ t, exec (.jp nnn) s = .next t ∧ t.pc.toNat = nnn.toNat ∧ t = { s with pc := t.pc } ∧ SameMemory s t) ∧
    (∃ t, exec (.jpV0 nnn) s = .next t ∧ t.pc.toNat = nnn.toNat + (s.getV 0).toNat ∧ t.pc.toNat ≤ 0x10FE ∧
      t = { s with pc := t.pc } ∧ SameMemory s t)

/-- CALL below capacity pushes pc and jumps, and changes nothing else; at capacity it raises `StackOverflow` and the
stack, memory and registers stay (R142; the exact faulted state is ExecuteFaultsExactlyAsListed). The faulted state, a
halted next state with a record and the rest unchanged, is decision D8 (R12, R128) and log entry 2. -/
def Obligations.CallPushesReturnAddress : Prop :=
  ∀ (s : State) (nnn : Imm12),
    (s.stack.length < 16 → ∃ t, exec (.call nnn) s = .next t ∧ t.stack = s.stack ++ [s.pc] ∧ t.pc.toNat = nnn.toNat ∧
      t = { s with pc := t.pc, stack := t.stack } ∧ SameMemory s t) ∧
    (s.stack.length = 16 → ∃ t, exec (.call nnn) s = .next t ∧ t.halted = true ∧
      (∃ r, t.fault = some r ∧ r.cause = .stackOverflow) ∧
      t = { s with pc := t.pc, halted := t.halted, fault := t.fault })

/-- RET takes the newest entry into pc and changes nothing else; on an empty stack it raises `StackUnderflow` (R140; the
exact faulted state is ExecuteFaultsExactlyAsListed). The faulted state, a halted next state with a record and the rest
unchanged, is decision D8 (R12, R128) and log entry 2. -/
def Obligations.RetPopsNewestEntry : Prop :=
  ∀ s : State,
    (∀ l a, s.stack = l ++ [a] → ∃ t, exec .ret s = .next t ∧ t.stack = l ∧ t.pc = a ∧
      t = { s with pc := t.pc, stack := t.stack } ∧ SameMemory s t) ∧
    (s.stack = [] → ∃ t, exec .ret s = .next t ∧ t.halted = true ∧ (∃ r, t.fault = some r ∧ r.cause = .stackUnderflow) ∧
      t = { s with pc := t.pc, halted := t.halted, fault := t.fault })

/-- The four register skips add 2 to pc when their condition holds and change nothing else (R143 to R146). -/
def Obligations.RegisterSkipsWriteOnlyPc : Prop :=
  ∀ (s : State) (x y : Reg) (nn : Byte) (i : Instr) (b : Bool),
    (i = .seImm x nn ∨ i = .sneImm x nn ∨ i = .seReg x y ∨ i = .sneReg x y) → skipHolds s i = some b →
    ∃ t, exec i s = .next t ∧ t.pc = (if b = true then s.pc + 2 else s.pc) ∧ t = { s with pc := t.pc } ∧ SameMemory s t

/-- The two key skips: with V[X] a key number they skip on the key's level and change nothing but pc (R250, R251); with
V[X] above 0xF they raise `KeypadIndexOutOfRange` (R256, R279; decision D11, log entry 17; the faulted state, D8 and log
entry 2). -/
def Obligations.KeySkipsReadTheNamedKey : Prop :=
  ∀ (s : State) (x : Reg),
    (∀ k : Reg, (s.getV x).toNat = k.val →
      (∃ t, exec (.skp x) s = .next t ∧ t.pc = (if s.key.get k = true then s.pc + 2 else s.pc) ∧
        t = { s with pc := t.pc } ∧ SameMemory s t) ∧
      (∃ t, exec (.sknp x) s = .next t ∧ t.pc = (if s.key.get k = true then s.pc else s.pc + 2) ∧
        t = { s with pc := t.pc } ∧ SameMemory s t)) ∧
    (0xF < (s.getV x).toNat → ∀ i, (i = .skp x ∨ i = .sknp x) →
      ∃ t, exec i s = .next t ∧ t.halted = true ∧ (∃ r, t.fault = some r ∧ r.cause = .keypadIndexOutOfRange) ∧
        t = { s with pc := t.pc, halted := t.halted, fault := t.fault })

/-- A skip moves pc by 4 in all when its condition holds and by 2 when it does not; but for the tick nothing else changes,
whatever the word skipped (R148). -/
def Obligations.SkipDistanceIsFourOrTwo : Prop :=
  ∀ (s : State) (i : Instr) (b : Bool), AtInstr s i → skipHolds s i = some b →
    ∃ t, step s = .next t ∧ t.pc.toNat = s.pc.toNat + (if b = true then 4 else 2) ∧
      t = { s with pc := t.pc, dt := t.dt, st := t.st }

/-! ## Arithmetic and logic -/

/-- The six operations without a flag write their result to V[X] and nothing else, VF only as destination (R171 to
R176). -/
def Obligations.PlainOperationsWriteOnlyTheResult : Prop :=
  ∀ (s : State) (i : Instr) (x : Reg) (r : Nat), plainResult s i = some (x, r) →
    ∃ t, exec i s = .next t ∧ (t.getV x).toNat = r ∧ SameRegsBut [x] s t ∧ t = { s with v := t.v } ∧ SameMemory s t

/-- The five flag-setting operations: VF holds the flag whatever X is, V[X] the result where X is not F, and nothing else
changes (R177 to R181). That the flag wins for X = F is the spec's decision D5, that the shifts ignore Y its D4 (log
entries 14, 16). -/
def Obligations.FlagOperationsWriteResultAndFlag : Prop :=
  ∀ (s : State) (i : Instr) (x : Reg) (r f : Nat), flagResult s i = some (x, r, f) →
    ∃ t, exec i s = .next t ∧ (t.getV 0xF).toNat = f ∧ (x ≠ 0xF → (t.getV x).toNat = r) ∧ SameRegsBut [x, 0xF] s t ∧
      t = { s with v := t.v } ∧ SameMemory s t

/-- RND writes the next free byte AND NN to V[X]: no bit outside NN is set, and the byte is consumed (R182; decision D20:
the byte is free; log entry 1). -/
def Obligations.RandomIsTheFreeByteMasked : Prop :=
  ∀ (s : State) (x : Reg) (nn : Byte),
    ∃ t, exec (.rnd x nn) s = .next t ∧ t.getV x = Config.rnd s.rndCount &&& nn ∧ t.getV x &&& ~~~nn = 0 ∧
      t.rndCount = s.rndCount + 1 ∧ SameRegsBut [x] s t ∧ t = { s with v := t.v, rndCount := t.rndCount } ∧ SameMemory s t

/-! ## The index register and memory -/

/-- LD I, nnn writes I and nothing else (R200). -/
def Obligations.SetIndexWritesOnlyI : Prop :=
  ∀ (s : State) (nnn : Imm12),
    ∃ t, exec (.ldI nnn) s = .next t ∧ t.i.toNat = nnn.toNat ∧ t = { s with i := t.i } ∧ SameMemory s t

/-- ADD I, Vx keeps the sum modulo 2^16 with no flag (R201; decision D13); LD F, Vx gives the glyph's address, not masked
(R202; decision D15); both write I and nothing else (log entry 19). -/
def Obligations.IndexArithmeticWritesOnlyI : Prop :=
  ∀ (s : State) (x : Reg),
    (∃ t, exec (.addI x) s = .next t ∧ t.i.toNat = (s.i.toNat + (s.getV x).toNat) % 65536 ∧ t = { s with i := t.i } ∧
      SameMemory s t) ∧
    (∃ t, exec (.ldF x) s = .next t ∧ t.i.toNat = 0x50 + 5 * (s.getV x).toNat ∧ t = { s with i := t.i } ∧ SameMemory s t)

/-- LD B, Vx writes the three decimal digits at I, I+1, I+2 where they may be written, and changes nothing else (R203).
That the font may not be written is decision D12, that I stays D14 (log entries 18, 19). -/
def Obligations.BcdStoresThreeDigits : Prop :=
  ∀ (s : State) (x : Reg), s.i.toNat + 2 ≤ 0xFFF → (s.i.toNat + 2 < 0x50 ∨ 0x9F < s.i.toNat) →
    ∃ t, exec (.ldB x) s = .next t ∧ (t.readByte s.i.toNat).toNat = (s.getV x).toNat / 100 ∧
      (t.readByte (s.i.toNat + 1)).toNat = (s.getV x).toNat / 10 % 10 ∧
      (t.readByte (s.i.toNat + 2)).toNat = (s.getV x).toNat % 10 ∧
      SameMemoryOutside s.i.toNat 3 s t ∧ t = { s with mem := t.mem }

/-- LD [I], Vx writes V[0] .. V[X] at I .. I+X where they may be written, and changes nothing else (R204; D12, D14). -/
def Obligations.DumpStoresRegisterPrefix : Prop :=
  ∀ (s : State) (x : Reg), s.i.toNat + x.val ≤ 0xFFF → (s.i.toNat + x.val < 0x50 ∨ 0x9F < s.i.toNat) →
    ∃ t, exec (.ldMemFromRegs x) s = .next t ∧ (∀ z : Reg, z ≤ x → t.readByte (s.i.toNat + z.val) = s.getV z) ∧
      SameMemoryOutside s.i.toNat (x.val + 1) s t ∧ t = { s with mem := t.mem }

/-- LD Vx, [I] writes the bytes at I .. I+X to V[0] .. V[X], VF like any register, and changes nothing else (R205; that I
stays is D14). -/
def Obligations.LoadFillsRegisterPrefix : Prop :=
  ∀ (s : State) (x : Reg), s.i.toNat + x.val ≤ 0xFFF →
    ∃ t, exec (.ldRegsFromMem x) s = .next t ∧ (∀ z : Reg, z ≤ x → t.getV z = s.readByte (s.i.toNat + z.val)) ∧
      (∀ z : Reg, x < z → t.getV z = s.getV z) ∧ t = { s with v := t.v } ∧ SameMemory s t

/-- The round-trip law of R205: after a register-dump, a register-load from the same index and memory gives every
register of the prefix its value before the dump, whatever the registers have become. The index is the one after the
dump, so the law rests on the dump leaving I as it was, decision D14 (R206; log entry 19). -/
def Obligations.LoadAfterDumpRestores : Prop :=
  ∀ (s t u : State) (x : Reg), exec (.ldMemFromRegs x) s = .next t → t.halted = s.halted → s.running → u.i = t.i →
    u.mem = t.mem → ∃ w, exec (.ldRegsFromMem x) u = .next w ∧ ∀ z : Reg, z ≤ x → w.getV z = s.getV z

/-- A word written by register-dump is the word the next fetch from its address gives (R78). -/
def Obligations.FetchSeesTheDumpedWord : Prop :=
  ∀ (s t : State) (x z : Reg) (z' : Reg), z'.val = z.val + 1 → z' ≤ x → s.pc.toNat = s.i.toNat + z.val → s.running →
    exec (.ldMemFromRegs x) s = .next t → t.running → t.fetch = .ok (packWord (s.getV z) (s.getV z'))

/-! ## Display -/

/-- CLS clears every cell and changes nothing else (R230). -/
def Obligations.ClearScreenClearsEveryCell : Prop :=
  ∀ s : State, ∃ t, exec .cls s = .next t ∧ (∀ x y, t.fb.cell x y = false) ∧ t = { s with fb := t.fb } ∧ SameMemory s t

/-- The loop of DRW in closed form: each cell is exclusive-ored with the sprite bit that covers it, VF is 1 exactly when
a set sprite bit covers a cell that was set, and nothing else changes (R231, R233, R235). Coordinates read before VF is
written are decision D6, the bit order of R232 is GK3 and decision D7 (log entries 13, 14). -/
def Obligations.DrawXorsTheCoveredCells : Prop :=
  ∀ (s : State) (x y : Reg) (n : Nibble), SpriteInMemory s n →
    ∃ t, exec (.drw x y n) s = .next t ∧
      (∀ cx cy, t.fb.cell cx cy = xor (s.fb.cell cx cy) (spriteCovers s x y n cx cy)) ∧
      (t.getV 0xF = 1 ∨ t.getV 0xF = 0) ∧
      (t.getV 0xF = 1 ↔ ∃ cx cy, s.fb.cell cx cy = true ∧ spriteCovers s x y n cx cy = true) ∧
      SameRegsBut [0xF] s t ∧ t = { s with v := t.v, fb := t.fb } ∧ SameMemory s t

/-- Drawing the same sprite at the same place twice restores the screen, and the second draw reports a collision if a
cell of the sprite was on after the first (R235). With X or Y = F the place is not the same, since the first draw writes
VF; DrawXorsTheCoveredCells covers that form. Which cells the sprite covers rests on the bit order of R232, presumed (GK3,
decision D7; log entry 13). -/
def Obligations.DrawTwiceRestoresTheScreen : Prop :=
  ∀ (s : State) (x y : Reg) (n : Nibble), SpriteInMemory s n → x ≠ 0xF → y ≠ 0xF →
    ∃ t u, exec (.drw x y n) s = .next t ∧ exec (.drw x y n) t = .next u ∧ SameScreen s u ∧
      ((∃ cx cy, spriteCovers s x y n cx cy = true ∧ t.fb.cell cx cy = true) → u.getV 0xF = 1)

/-- The framebuffer output (R37, R38, decision D22): the cell at column x, row y is the byte of linear index y·64 + x,
0xFF when set and 0x00 when clear. -/
def Obligations.PixelOutputIsRowMajor : Prop :=
  ∀ (s : State) (x : Fin 64) (y : Fin 32) (k : Fin 2048), k.val = y.val * 64 + x.val →
    s.fbPixel k = if s.fb.cell x y = true then 0xFF else 0x00

/-! ## Keypad and timers -/

/-- LD Vx, DT copies DT, before the cycle's tick lowers it; LD DT, Vx and LD ST, Vx set a timer, which ends the cycle one
lower, or at zero; each changes nothing else (R252, R253, R254; the tick is R126, and that it follows a set in the same
cycle is what R253 derives from it). -/
def Obligations.TimerMovesCopyTheValue : Prop :=
  ∀ (s : State) (x : Reg),
    (∃ t, exec (.ldVxDt x) s = .next t ∧ t.getV x = s.dt ∧ t.tick.dt.toNat = s.dt.toNat - 1 ∧ SameRegsBut [x] s t ∧
      t = { s with v := t.v } ∧ SameMemory s t) ∧
    (∃ t, exec (.ldDtVx x) s = .next t ∧ t.dt = s.getV x ∧ t.tick.dt.toNat = (s.getV x).toNat - 1 ∧
      t = { s with dt := t.dt } ∧ SameMemory s t) ∧
    (∃ t, exec (.ldStVx x) s = .next t ∧ t.st = s.getV x ∧ t.tick.st.toNat = (s.getV x).toNat - 1 ∧
      t = { s with st := t.st } ∧ SameMemory s t)

/-- Block-on-key stores the lowest key down of 0x0 .. 0xE and changes nothing else; with none down, whatever key 0xF is,
it moves pc back by 2 and changes nothing else, so that the whole cycle changes nothing but the ticking timers and the
same word is fetched again (R255). -/
def Obligations.BlockOnKeyTakesTheLowestKey : Prop :=
  ∀ (s : State) (x : Reg),
    (∀ k : Reg, k ≠ 0xF → s.key.get k = true → (∀ j, j < k → s.key.get j = false) →
      ∃ t, exec (.ldVxK x) s = .next t ∧ (t.getV x).toNat = k.val ∧ SameRegsBut [x] s t ∧ t = { s with v := t.v } ∧
        SameMemory s t) ∧
    (¬ someScannedKey s →
      (∃ t, exec (.ldVxK x) s = .next t ∧ t.pc = s.pc - 2 ∧ t = { s with pc := t.pc } ∧ SameMemory s t) ∧
      (AtInstr s (.ldVxK x) → ∃ t, step s = .next t ∧ t.pc = s.pc ∧ wordAtPc t = wordAtPc s ∧
        t.dt.toNat = s.dt.toNat - 1 ∧ t.st.toNat = s.st.toNat - 1 ∧ t = { s with dt := t.dt, st := t.st }))

/-- The core only reads the keypad, and only three instructions read it: SKP, SKNP and LD Vx, K. Any other instruction
does the same whatever the keys are (R39). -/
def Obligations.OnlyThreeInstructionsReadKeys : Prop :=
  (∀ s t : State, step s = .next t → t.key = s.key) ∧
  (∀ (s t : State) (i : Instr) (keys : Vector Bool 16), (∀ x, i ≠ .skp x ∧ i ≠ .sknp x ∧ i ≠ .ldVxK x) →
    exec i s = .next t → exec i { s with key := keys } = .next { t with key := keys })

/-- No instruction reads ST: a step does the same but for ST itself whatever ST holds (R31). -/
def Obligations.NoInstructionReadsSoundTimer : Prop :=
  ∀ (s t : State) (b : Byte), step s = .next t → ∃ c, step { s with st := b } = .next { t with st := c }

/-! ## What may change, over all instructions -/

/-- Memory: an instruction that stores changes no byte outside the bytes it stores to, and any other changes none
(R69). -/
def Obligations.OnlyStoredBytesChange : Prop :=
  ∀ (s t : State) (i : Instr), exec i s = .next t →
    (storedRange s i = none → SameMemory s t) ∧ (∀ a n, storedRange s i = some (a, n) → SameMemoryOutside a n s t)

/-- Registers: no V register changes but those the table of R22 names, VF only as a flag or a destination. -/
def Obligations.OnlyNamedRegistersChange : Prop :=
  ∀ (s t : State) (i : Instr), exec i s = .next t → SameRegsBut (writtenRegs i) s t

/-- Every other field has its writers: I the three of R28, the stack call and return (R33), DT and ST their set
instructions (before the tick), the screen clear-screen and draw (R37), and the count of free bytes RND. That no other
instruction changes I, as a side effect, is decision D14 (R206; log entry 19); the count is the model's own field, which
stands for the random byte of R40 (log entry 1). -/
def Obligations.EachFieldHasItsWriters : Prop :=
  ∀ (s t : State) (i : Instr), exec i s = .next t →
    ((∀ x n, i ≠ .ldI n ∧ i ≠ .addI x ∧ i ≠ .ldF x) → t.i = s.i) ∧
    ((∀ n, i ≠ .call n ∧ i ≠ .ret) → t.stack = s.stack) ∧
    ((∀ x, i ≠ .ldDtVx x) → t.dt = s.dt) ∧ ((∀ x, i ≠ .ldStVx x) → t.st = s.st) ∧
    ((∀ x y n, i ≠ .cls ∧ i ≠ .drw x y n) → SameScreen s t) ∧
    ((∀ x n, i ≠ .rnd x n) → t.rndCount = s.rndCount) ∧ t.key = s.key

/-- No step changes a byte of the font region, from any state (R36; the mechanism is decision D12, log entry 18). -/
def Obligations.FontNeverMutated : Prop :=
  ∀ (s t : State) (a : Nat), step s = .next t → 0x50 ≤ a → a ≤ 0x9F → t.readByte a = s.readByte a

/-- The fault outputs: `fault_cause` is 0 exactly while the core runs, and after a faulting cycle the outputs hold the
code of R271, the address and the word (R271, decision D9; R277). -/
def Obligations.FaultOutputsShowTheRecord : Prop :=
  (∀ s : State, s.Inv → (s.halted = true ↔ s.faultCause ≠ 0)) ∧
  (∀ (s : State) (c : Fault) (w : Option Word), (haltedWith s c w).faultCause = c.code ∧
    (haltedWith s c w).faultPc = some s.pc ∧ (haltedWith s c w).faultWord = w) ∧
  (Fault.decodeFailure.code = 1 ∧ Fault.stackOverflow.code = 2 ∧ Fault.stackUnderflow.code = 3 ∧
    Fault.memoryOutOfRange.code = 4 ∧ Fault.keypadIndexOutOfRange.code = 5 ∧ Fault.fontRegionWrite.code = 6)

/-- A jump to its own address leaves all state but the timers fixed (R310). -/
def Obligations.SelfJumpChangesOnlyTimers : Prop :=
  ∀ (s : State) (nnn : Imm12), AtInstr s (.jp nnn) → nnn.toNat = s.pc.toNat →
    ∃ t, step s = .next t ∧ t = { s with dt := t.dt, st := t.st } ∧ t.dt.toNat = s.dt.toNat - 1 ∧
      t.st.toNat = s.st.toNat - 1
end

