-- ==== Sys2Proof/Laws/Decode.lean ====
section
/-! SUPPORT. The fields of a word that a shape of R92 builds, and each word as the shape of its fields (R91). -/

namespace Sys2Proof

theorem fieldC_append (c : Nibble) (r : BitVec 12) : fieldC (c ++ r) = c :=
  BitVec.extractLsb'_append_eq_left (a := c) (b := r)

theorem fieldNNN_append (c : Nibble) (r : BitVec 12) : fieldNNN (c ++ r) = r :=
  BitVec.extractLsb'_append_eq_right (a := c) (b := r)

/-- A field inside the low 12 bits does not see the class. -/
theorem extract_skip_class (c : Nibble) (r : BitVec 12) {start len : Nat} (h : start + len ≤ 12) :
    BitVec.extractLsb' start len (c ++ r : Word) = r.extractLsb' start len :=
  BitVec.extractLsb'_append_eq_of_add_le (xhi := c) (xlo := r) h

/-- A field inside the low byte does not see X. -/
theorem extract_skip_x (x : Nibble) (r : BitVec 8) {start len : Nat} (h : start + len ≤ 8) :
    BitVec.extractLsb' start len (x ++ r : Imm12) = r.extractLsb' start len :=
  BitVec.extractLsb'_append_eq_of_add_le (xhi := x) (xlo := r) h

theorem fieldX_append (c x : Nibble) (r : BitVec 8) : fieldX (c ++ (x ++ r : Imm12)) = x.toFin := by
  rw [fieldX, extract_skip_class _ _ (by decide)]
  exact congrArg BitVec.toFin (BitVec.extractLsb'_append_eq_left (a := x) (b := r))

theorem fieldNN_append (c x : Nibble) (r : BitVec 8) : fieldNN (c ++ (x ++ r : Imm12)) = r := by
  rw [fieldNN, extract_skip_class _ _ (by decide)]
  exact BitVec.extractLsb'_append_eq_right (a := x) (b := r)

theorem fieldY_append (c x y n : Nibble) : fieldY (c ++ (x ++ (y ++ n : Byte) : Imm12)) = y.toFin := by
  rw [fieldY, extract_skip_class _ _ (by decide), extract_skip_x _ _ (by decide)]
  exact congrArg BitVec.toFin (BitVec.extractLsb'_append_eq_left (a := y) (b := n))

theorem fieldN_append (c x y n : Nibble) : fieldN (c ++ (x ++ (y ++ n : Byte) : Imm12)) = n := by
  rw [fieldN, extract_skip_class _ _ (by decide), extract_skip_x _ _ (by decide)]
  exact BitVec.extractLsb'_append_eq_right (a := y) (b := n)

/-! ## The fields of the three shapes -/

@[simp] theorem fieldC_wordNNN (c : Nibble) (nnn : Imm12) : fieldC (wordNNN c nnn) = c := fieldC_append c nnn
@[simp] theorem fieldNNN_wordNNN (c : Nibble) (nnn : Imm12) : fieldNNN (wordNNN c nnn) = nnn := fieldNNN_append c nnn
@[simp] theorem fieldC_wordXNN (c : Nibble) (x : Reg) (nn : Byte) : fieldC (wordXNN c x nn) = c := fieldC_append _ _
@[simp] theorem fieldX_wordXNN (c : Nibble) (x : Reg) (nn : Byte) : fieldX (wordXNN c x nn) = x :=
  fieldX_append _ _ _
@[simp] theorem fieldNN_wordXNN (c : Nibble) (x : Reg) (nn : Byte) : fieldNN (wordXNN c x nn) = nn :=
  fieldNN_append _ _ _
@[simp] theorem fieldC_wordXYN (c : Nibble) (x y : Reg) (n : Nibble) : fieldC (wordXYN c x y n) = c :=
  fieldC_append _ _
@[simp] theorem fieldX_wordXYN (c : Nibble) (x y : Reg) (n : Nibble) : fieldX (wordXYN c x y n) = x :=
  fieldX_append _ _ _
@[simp] theorem fieldY_wordXYN (c : Nibble) (x y : Reg) (n : Nibble) : fieldY (wordXYN c x y n) = y :=
  fieldY_append _ _ _ _
@[simp] theorem fieldN_wordXYN (c : Nibble) (x y : Reg) (n : Nibble) : fieldN (wordXYN c x y n) = n :=
  fieldN_append _ _ _ _

/-! ## A word from its fields -/

theorem wordNNN_fields (w : Word) : wordNNN (fieldC w) (fieldNNN w) = w :=
  (BitVec.extractLsb'_append_extractLsb'_eq_extractLsb' (by decide)).trans BitVec.extractLsb'_eq_self

theorem fieldNNN_split (w : Word) : regNibble (fieldX w) ++ fieldNN w = fieldNNN w :=
  BitVec.extractLsb'_append_extractLsb'_eq_extractLsb' (x := w) (start₁ := 0) (len₁ := 8) (len₂ := 4) (by decide)

theorem fieldNN_split (w : Word) : regNibble (fieldY w) ++ fieldN w = fieldNN w :=
  BitVec.extractLsb'_append_extractLsb'_eq_extractLsb' (x := w) (start₁ := 0) (len₁ := 4) (len₂ := 4) (by decide)

theorem wordXNN_fields (w : Word) : wordXNN (fieldC w) (fieldX w) (fieldNN w) = w := by
  rw [wordXNN, fieldNNN_split]; exact wordNNN_fields w

theorem wordXYN_fields (w : Word) : wordXYN (fieldC w) (fieldX w) (fieldY w) (fieldN w) = w := by
  rw [wordXYN, fieldNN_split]; exact wordXNN_fields w

/-! ## Bytes of a word -/

@[simp] theorem packWord_bytes (w : Word) : packWord (highByte w) (lowByte w) = w :=
  (BitVec.extractLsb'_append_extractLsb'_eq_extractLsb' (by decide)).trans BitVec.extractLsb'_eq_self

/-! ## Taking the decoder apart -/

/-- One level of a decoder's dispatch: what answered ok is the branch whose test held. -/
theorem ite_ok_cases {p : Prop} [Decidable p] {a b : Except DecodeReject Instr} {i : Instr}
    (h : (if p then a else b) = .ok i) : (p ∧ a = .ok i) ∨ (¬ p ∧ b = .ok i) := by
  by_cases hp : p
  · rw [if_pos hp] at h; exact .inl ⟨hp, h⟩
  · rw [if_neg hp] at h; exact .inr ⟨hp, h⟩

/-- A class that is none of the first fifteen is class F (R104). -/
theorem class_eq_F (c : Nibble) : c ≠ 0x0 → c ≠ 0x1 → c ≠ 0x2 → c ≠ 0x3 → c ≠ 0x4 → c ≠ 0x5 → c ≠ 0x6 → c ≠ 0x7 →
    c ≠ 0x8 → c ≠ 0x9 → c ≠ 0xA → c ≠ 0xB → c ≠ 0xC → c ≠ 0xD → c ≠ 0xE → c = 0xF := by
  bv_omega

end Sys2Proof
end

