-- ==== Sys2Proof/Laws/Framebuffer.lean ====
section
/-! SUPPORT. The framebuffer: one cell after clearing and after toggling, and the turns of the draw loop. -/

namespace Sys2Proof.Machine

@[simp] theorem Framebuffer.cell_blank (x : Fin 64) (y : Fin 32) : Framebuffer.blank.cell x y = false := by
  simp [Framebuffer.cell, Framebuffer.blank, Vector.get_eq_getElem]

theorem Framebuffer.cell_toggle (fb : Framebuffer) (x x' : Fin 64) (y y' : Fin 32) :
    (fb.toggle x y).cell x' y' = if x' = x ∧ y' = y then !fb.cell x y else fb.cell x' y' := by
  simp only [Framebuffer.cell, Framebuffer.toggle, Vector.get_eq_getElem, Vector.getElem_set]
  by_cases hy : y.val = y'.val
  · obtain rfl : y = y' := Fin.ext hy
    by_cases hx : x.val = x'.val
    · obtain rfl : x = x' := Fin.ext hx
      simp
    · have : x' ≠ x := fun e => hx (by rw [e])
      simp [hx, this]
  · have : y' ≠ y := fun e => hy (by rw [e])
    simp [hy, this]

/-- Which sprite column and row, if any, wrap onto a cell (R233). -/
theorem wrap_eq_iff (x0 y0 c r : Nat) (cx : Fin 64) (cy : Fin 32) (hc : c < 8) (hr : r < 16) :
    (cx = wrapX x0 c ∧ cy = wrapY y0 r) ↔
      (cx.val + 64 - x0 % 64) % 64 = c ∧ (cy.val + 32 - y0 % 32) % 32 = r := by
  simp only [wrapX, wrapY, Fin.ext_iff, Fin.ofNat]
  omega

/-- A turn of the inner loop on a clear sprite bit changes nothing (R231). -/
theorem drawBit_clear {x0 y0 r : Nat} {row : Byte} {c : Nat} (h : spriteBit row c = false) (d : Drawing) :
    drawBit x0 y0 r row d c = d := by simp [drawBit, h]

/-- A turn of the inner loop on a set sprite bit toggles one wrapped cell and reports it if it was set (R231). -/
theorem drawBit_set {x0 y0 r : Nat} {row : Byte} {c : Nat} (h : spriteBit row c = true) (d : Drawing) :
    drawBit x0 y0 r row d c =
      { fb := d.fb.toggle (wrapX x0 c) (wrapY y0 r), hit := d.hit || d.fb.cell (wrapX x0 c) (wrapY y0 r) } := by
  simp [drawBit, h]

@[simp] theorem drawRows_nil (x0 y0 r : Nat) (d : Drawing) : drawRows x0 y0 r [] d = d := rfl

theorem drawRows_cons (x0 y0 r : Nat) (row : Byte) (rows : List Byte) (d : Drawing) :
    drawRows x0 y0 r (row :: rows) d = drawRows x0 y0 (r + 1) rows (drawRow x0 y0 r row d) := rfl

end Sys2Proof.Machine
end

