-- ==== Sys2Proof/Laws/Memory.lean ====
section
/-! SUPPORT. Memory: a read after a write, the canonical form kept by every operation, and what a range check says. -/

namespace Sys2Proof.Machine

/-! ## One byte -/

@[simp] theorem Memory.lookup_nil (a : Nat) : Memory.lookup [] a = none := rfl

theorem Memory.lookup_cons (k : Nat) (c : Byte) (m : Memory) (a : Nat) :
    Memory.lookup ((k, c) :: m) a = if k = a then some c else Memory.lookup m a := rfl

@[simp] theorem Memory.read_nil (a : Nat) : Memory.read [] a = Memory.initial a := rfl

theorem Memory.lookup_insert_same (m : Memory) (a : Nat) (b : Byte) : (m.insert a b).lookup a = some b := by
  induction m with
  | nil => simp [Memory.insert, Memory.lookup]
  | cons kc m ih =>
    obtain ⟨k, c⟩ := kc
    simp only [Memory.insert]
    split
    · simp [Memory.lookup]
    · split
      · simp [Memory.lookup]
      · next h1 h2 => simp [Memory.lookup, ih, Ne.symm h2]

theorem Memory.lookup_insert_ne (m : Memory) {a z : Nat} (b : Byte) (h : z ≠ a) :
    (m.insert a b).lookup z = m.lookup z := by
  induction m with
  | nil => simp [Memory.insert, Memory.lookup, Ne.symm h]
  | cons kc m ih =>
    obtain ⟨k, c⟩ := kc
    simp only [Memory.insert]
    split
    · simp [Memory.lookup, Ne.symm h]
    · split
      · next h1 h2 => subst h2; simp [Memory.lookup, Ne.symm h]
      · simp [Memory.lookup, ih]

theorem Memory.lookup_erase (m : Memory) (a z : Nat) : (m.erase a).lookup z = if z = a then none else m.lookup z := by
  induction m with
  | nil => simp [Memory.erase, Memory.lookup]
  | cons kc m ih =>
    obtain ⟨k, c⟩ := kc
    simp only [Memory.erase] at ih
    by_cases hk : k = a
    · subst hk
      by_cases hz : z = k
      · subst hz; simpa [Memory.erase] using ih
      · simp [Memory.erase, Memory.lookup, ih, hz, Ne.symm hz]
    · by_cases hz : k = z
      · subst hz; simp [Memory.erase, Memory.lookup, hk]
      · simp [Memory.erase, Memory.lookup, ih, hk, hz]

/-- A write leaves every other address alone (R65). -/
theorem Memory.read_write_ne (m : Memory) {a z : Nat} (b : Byte) (h : z ≠ a) : (m.write a b).read z = m.read z := by
  unfold Memory.write Memory.read
  split
  · rw [Memory.lookup_erase, if_neg h]
  · rw [m.lookup_insert_ne b h]

/-- A read after a write to the same address gives the byte written (R75). -/
theorem Memory.read_write_same (m : Memory) (a : Nat) (b : Byte) : (m.write a b).read a = b := by
  unfold Memory.write Memory.read
  split
  · next hb => rw [Memory.lookup_erase, if_pos rfl, hb]; rfl
  · rw [m.lookup_insert_same]; rfl

/-! ## The canonical form -/

theorem Memory.mem_insert (m : Memory) (a : Nat) (b : Byte) (d : Host.Cell) (h : d ∈ m.insert a b) :
    d = (a, b) ∨ d ∈ m := by
  induction m with
  | nil => simpa [Memory.insert] using h
  | cons kc m ih =>
    obtain ⟨k, c⟩ := kc
    simp only [Memory.insert] at h
    split at h
    · simpa using h
    · split at h
      · rcases List.mem_cons.mp h with h | h
        · exact .inl h
        · exact .inr (by simp [h])
      · rcases List.mem_cons.mp h with h | h
        · exact .inr (by simp [h])
        · exact (ih h).imp id fun h => by simp [h]

theorem Memory.mem_erase (m : Memory) (a : Nat) (d : Host.Cell) (h : d ∈ m.erase a) : d ∈ m :=
  List.mem_of_mem_filter h

theorem Memory.pairwise_insert (m : Memory) (a : Nat) (b : Byte) (h : m.Pairwise fun c d => c.1 < d.1) :
    (m.insert a b).Pairwise fun c d => c.1 < d.1 := by
  induction m with
  | nil => simp [Memory.insert]
  | cons kc m ih =>
    obtain ⟨k, c⟩ := kc
    have h' := List.pairwise_cons.mp h
    simp only [Memory.insert]
    split
    · next hk =>
      refine List.pairwise_cons.mpr ⟨fun d hd => ?_, h⟩
      rcases List.mem_cons.mp hd with hd | hd
      · simpa [hd] using hk
      · exact Nat.lt_trans hk (h'.1 d hd)
    · split
      · next hk => subst hk; exact List.pairwise_cons.mpr ⟨h'.1, h'.2⟩
      · next h1 h2 =>
        refine List.pairwise_cons.mpr ⟨fun d hd => ?_, ih h'.2⟩
        rcases Memory.mem_insert m a b d hd with hd | hd
        · simp only [hd]; omega
        · exact h'.1 d hd

theorem Memory.pairwise_erase (m : Memory) (a : Nat) (h : m.Pairwise fun c d => c.1 < d.1) :
    (m.erase a).Pairwise fun c d => c.1 < d.1 := h.filter _

theorem Memory.wf_nil : Memory.wf [] := by simp [Memory.wf]

/-- A write inside the address space keeps the canonical form. -/
theorem Memory.wf_write (m : Memory) (hm : m.wf) (a : Nat) (ha : a < Config.memSize) (b : Byte) : (m.write a b).wf := by
  unfold Memory.write
  split
  · exact ⟨m.pairwise_erase a hm.1, fun c hc => hm.2 c (m.mem_erase a c hc)⟩
  · next hb =>
    refine ⟨m.pairwise_insert a b hm.1, fun c hc => ?_⟩
    rcases m.mem_insert a b c hc with h | h
    · subst h; exact ⟨ha, hb⟩
    · exact hm.2 c h

/-- A run of writes inside the address space keeps the canonical form. -/
theorem Memory.wf_writeBytes (bs : List Byte) (m : Memory) (hm : m.wf) (a : Nat)
    (ha : a + bs.length ≤ Config.memSize) : (m.writeBytes a bs).wf := by
  induction bs generalizing m a with
  | nil => exact hm
  | cons b bs ih =>
    simp only [List.length_cons] at ha
    exact ih (m.write a b) (m.wf_write hm a (by omega) b) (a + 1) (by omega)

/-! ## Runs of bytes -/

@[simp] theorem Memory.writeBytes_nil (m : Memory) (a : Nat) : m.writeBytes a [] = m := rfl

theorem Memory.writeBytes_cons (m : Memory) (a : Nat) (b : Byte) (bs : List Byte) :
    m.writeBytes a (b :: bs) = (m.write a b).writeBytes (a + 1) bs := rfl

/-- Every byte outside the run reads as before. -/
theorem Memory.read_writeBytes_outside (bs : List Byte) (m : Memory) (a z : Nat) (h : z < a ∨ a + bs.length ≤ z) :
    (m.writeBytes a bs).read z = m.read z := by
  induction bs generalizing m a with
  | nil => rfl
  | cons b bs ih =>
    simp only [List.length_cons] at h
    rw [Memory.writeBytes_cons, ih _ _ (by omega), m.read_write_ne b (by omega)]

/-- Byte k of the run reads as the k-th byte written. -/
theorem Memory.read_writeBytes (bs : List Byte) (m : Memory) (a k : Nat) (hk : k < bs.length) :
    (m.writeBytes a bs).read (a + k) = bs[k] := by
  induction bs generalizing m a k with
  | nil => simp at hk
  | cons b bs ih =>
    rw [Memory.writeBytes_cons]
    cases k with
    | zero =>
      rw [Memory.read_writeBytes_outside _ _ _ _ (by omega)]
      simpa using m.read_write_same a b
    | succ k =>
      have := ih (m.write a b) (a + 1) k (by simpa using hk)
      simpa [Nat.add_assoc, Nat.add_comm 1 k] using this

@[simp] theorem Memory.length_readBytes (m : Memory) (a n : Nat) : (m.readBytes a n).length = n := by
  simp [Memory.readBytes]

@[simp] theorem Memory.getElem_readBytes (m : Memory) (a n k : Nat) (h : k < (m.readBytes a n).length) :
    (m.readBytes a n)[k] = m.read (a + k) := by
  simp [Memory.readBytes]

/-! ## Range checks -/

/-- A range passes when each of its addresses does (R72). -/
theorem rangeFault_eq_none (check : Nat → Option Fault) (a n : Nat) :
    rangeFault check a n = none ↔ ∀ k < n, check (a + k) = none := by
  simp [rangeFault]

/-- The range check for reading: the last address decides. -/
theorem rangeFault_read_eq_none (a n : Nat) : rangeFault readFault a n = none ↔ n = 0 ∨ a + n ≤ 0x1000 := by
  rw [rangeFault_eq_none]
  constructor
  · intro h
    by_cases hn : n = 0
    · exact .inl hn
    · have := h (n - 1) (by omega)
      simp only [readFault, ite_eq_right_iff] at this
      exact .inr (by_contra fun hc => by simpa using this (by omega))
  · intro h k hk
    simp only [readFault, ite_eq_right_iff]
    intro; omega

/-- A range that fails for reading is out of range. -/
theorem rangeFault_read_eq_some {a n : Nat} {c : Fault} (h : rangeFault readFault a n = some c) :
    c = .memoryOutOfRange := by
  obtain ⟨k, -, hk⟩ := List.exists_of_findSome?_eq_some h
  simp only [readFault] at hk
  split at hk
  · simpa using hk.symm
  · simp at hk

theorem inFont_iff (a : Nat) : inFont a = true ↔ 0x50 ≤ a ∧ a ≤ 0x9F := by
  simp only [inFont, Bool.and_eq_true, decide_eq_true_eq, Config.fontBase, Config.fontEnd]; omega

/-- The range check for writing: the last address is in range and the range does not meet the font. -/
theorem rangeFault_write_eq_none (a n : Nat) (hn : 0 < n) :
    rangeFault writeFault a n = none ↔ a + n ≤ 0x1000 ∧ (a + n ≤ 0x50 ∨ 0xA0 ≤ a) := by
  rw [rangeFault_eq_none]
  constructor
  · intro h
    have hlast := h (n - 1) (by omega)
    have hfont := h (0x50 - a)
    simp only [writeFault] at hlast hfont
    have h1 : ¬ a + (n - 1) > 0xFFF := fun hc => by simp [hc] at hlast
    refine ⟨by omega, by_contra fun hc => ?_⟩
    have hin : inFont (a + (0x50 - a)) = true := (inFont_iff _).mpr (by omega)
    simpa [hin, show ¬ a + (0x50 - a) > 0xFFF by omega] using hfont (by omega)
  · rintro ⟨h1, h2⟩ k hk
    have hf : inFont (a + k) = false := by
      rw [Bool.eq_false_iff, ne_eq, inFont_iff]; omega
    simp [writeFault, hf, show ¬ a + k > 0xFFF by omega]

/-- A range that fails for writing is out of range or meets the font; one of at most 16 bytes cannot do both, so the
cause is settled (R72, R281). -/
theorem rangeFault_write_eq_some {a n : Nat} {c : Fault} (hn : n ≤ 16) (h : rangeFault writeFault a n = some c) :
    (c = .memoryOutOfRange ∧ a + n > 0x1000) ∨
      (c = .fontRegionWrite ∧ a + n ≤ 0x1000 ∧ 0x50 < a + n ∧ a < 0xA0) := by
  obtain ⟨k, hk, hc⟩ := List.exists_of_findSome?_eq_some h
  rw [List.mem_range] at hk
  simp only [writeFault] at hc
  split at hc
  · exact .inl ⟨by simpa using hc.symm, by omega⟩
  · split at hc
    · next hf => rw [inFont_iff] at hf; exact .inr ⟨by simpa using hc.symm, by omega⟩
    · simp at hc

end Sys2Proof.Machine
end

