-- ==== Sys2Proof/Laws/State.lean ====
section
/-! SUPPORT. What each named update of the state does to each field of it: one lemma a field and update, all by rfl, so
that no later proof unfolds an update. -/

namespace Sys2Proof.Machine

section
variable (s : State)

@[simp] theorem State.setV_mem (x : Reg) (b : Byte) : (s.setV x b).mem = s.mem := rfl
@[simp] theorem State.setV_v (x : Reg) (b : Byte) : (s.setV x b).v = s.v.set x b := rfl
@[simp] theorem State.setV_i (x : Reg) (b : Byte) : (s.setV x b).i = s.i := rfl
@[simp] theorem State.setV_pc (x : Reg) (b : Byte) : (s.setV x b).pc = s.pc := rfl
@[simp] theorem State.setV_stack (x : Reg) (b : Byte) : (s.setV x b).stack = s.stack := rfl
@[simp] theorem State.setV_dt (x : Reg) (b : Byte) : (s.setV x b).dt = s.dt := rfl
@[simp] theorem State.setV_st (x : Reg) (b : Byte) : (s.setV x b).st = s.st := rfl
@[simp] theorem State.setV_fb (x : Reg) (b : Byte) : (s.setV x b).fb = s.fb := rfl
@[simp] theorem State.setV_key (x : Reg) (b : Byte) : (s.setV x b).key = s.key := rfl
@[simp] theorem State.setV_halted (x : Reg) (b : Byte) : (s.setV x b).halted = s.halted := rfl
@[simp] theorem State.setV_fault (x : Reg) (b : Byte) : (s.setV x b).fault = s.fault := rfl
@[simp] theorem State.setV_rndCount (x : Reg) (b : Byte) : (s.setV x b).rndCount = s.rndCount := rfl

@[simp] theorem State.setRegs_mem (v : Vector Byte 16) : (s.setRegs v).mem = s.mem := rfl
@[simp] theorem State.setRegs_v (v : Vector Byte 16) : (s.setRegs v).v = v := rfl
@[simp] theorem State.setRegs_i (v : Vector Byte 16) : (s.setRegs v).i = s.i := rfl
@[simp] theorem State.setRegs_pc (v : Vector Byte 16) : (s.setRegs v).pc = s.pc := rfl
@[simp] theorem State.setRegs_stack (v : Vector Byte 16) : (s.setRegs v).stack = s.stack := rfl
@[simp] theorem State.setRegs_dt (v : Vector Byte 16) : (s.setRegs v).dt = s.dt := rfl
@[simp] theorem State.setRegs_st (v : Vector Byte 16) : (s.setRegs v).st = s.st := rfl
@[simp] theorem State.setRegs_fb (v : Vector Byte 16) : (s.setRegs v).fb = s.fb := rfl
@[simp] theorem State.setRegs_key (v : Vector Byte 16) : (s.setRegs v).key = s.key := rfl
@[simp] theorem State.setRegs_halted (v : Vector Byte 16) : (s.setRegs v).halted = s.halted := rfl
@[simp] theorem State.setRegs_fault (v : Vector Byte 16) : (s.setRegs v).fault = s.fault := rfl
@[simp] theorem State.setRegs_rndCount (v : Vector Byte 16) : (s.setRegs v).rndCount = s.rndCount := rfl

@[simp] theorem State.setI_mem (a : Word) : (s.setI a).mem = s.mem := rfl
@[simp] theorem State.setI_v (a : Word) : (s.setI a).v = s.v := rfl
@[simp] theorem State.setI_i (a : Word) : (s.setI a).i = a := rfl
@[simp] theorem State.setI_pc (a : Word) : (s.setI a).pc = s.pc := rfl
@[simp] theorem State.setI_stack (a : Word) : (s.setI a).stack = s.stack := rfl
@[simp] theorem State.setI_dt (a : Word) : (s.setI a).dt = s.dt := rfl
@[simp] theorem State.setI_st (a : Word) : (s.setI a).st = s.st := rfl
@[simp] theorem State.setI_fb (a : Word) : (s.setI a).fb = s.fb := rfl
@[simp] theorem State.setI_key (a : Word) : (s.setI a).key = s.key := rfl
@[simp] theorem State.setI_halted (a : Word) : (s.setI a).halted = s.halted := rfl
@[simp] theorem State.setI_fault (a : Word) : (s.setI a).fault = s.fault := rfl
@[simp] theorem State.setI_rndCount (a : Word) : (s.setI a).rndCount = s.rndCount := rfl

@[simp] theorem State.setPc_mem (a : Word) : (s.setPc a).mem = s.mem := rfl
@[simp] theorem State.setPc_v (a : Word) : (s.setPc a).v = s.v := rfl
@[simp] theorem State.setPc_i (a : Word) : (s.setPc a).i = s.i := rfl
@[simp] theorem State.setPc_pc (a : Word) : (s.setPc a).pc = a := rfl
@[simp] theorem State.setPc_stack (a : Word) : (s.setPc a).stack = s.stack := rfl
@[simp] theorem State.setPc_dt (a : Word) : (s.setPc a).dt = s.dt := rfl
@[simp] theorem State.setPc_st (a : Word) : (s.setPc a).st = s.st := rfl
@[simp] theorem State.setPc_fb (a : Word) : (s.setPc a).fb = s.fb := rfl
@[simp] theorem State.setPc_key (a : Word) : (s.setPc a).key = s.key := rfl
@[simp] theorem State.setPc_halted (a : Word) : (s.setPc a).halted = s.halted := rfl
@[simp] theorem State.setPc_fault (a : Word) : (s.setPc a).fault = s.fault := rfl
@[simp] theorem State.setPc_rndCount (a : Word) : (s.setPc a).rndCount = s.rndCount := rfl

@[simp] theorem State.setDT_mem (b : Byte) : (s.setDT b).mem = s.mem := rfl
@[simp] theorem State.setDT_v (b : Byte) : (s.setDT b).v = s.v := rfl
@[simp] theorem State.setDT_i (b : Byte) : (s.setDT b).i = s.i := rfl
@[simp] theorem State.setDT_pc (b : Byte) : (s.setDT b).pc = s.pc := rfl
@[simp] theorem State.setDT_stack (b : Byte) : (s.setDT b).stack = s.stack := rfl
@[simp] theorem State.setDT_dt (b : Byte) : (s.setDT b).dt = b := rfl
@[simp] theorem State.setDT_st (b : Byte) : (s.setDT b).st = s.st := rfl
@[simp] theorem State.setDT_fb (b : Byte) : (s.setDT b).fb = s.fb := rfl
@[simp] theorem State.setDT_key (b : Byte) : (s.setDT b).key = s.key := rfl
@[simp] theorem State.setDT_halted (b : Byte) : (s.setDT b).halted = s.halted := rfl
@[simp] theorem State.setDT_fault (b : Byte) : (s.setDT b).fault = s.fault := rfl
@[simp] theorem State.setDT_rndCount (b : Byte) : (s.setDT b).rndCount = s.rndCount := rfl

@[simp] theorem State.setST_mem (b : Byte) : (s.setST b).mem = s.mem := rfl
@[simp] theorem State.setST_v (b : Byte) : (s.setST b).v = s.v := rfl
@[simp] theorem State.setST_i (b : Byte) : (s.setST b).i = s.i := rfl
@[simp] theorem State.setST_pc (b : Byte) : (s.setST b).pc = s.pc := rfl
@[simp] theorem State.setST_stack (b : Byte) : (s.setST b).stack = s.stack := rfl
@[simp] theorem State.setST_dt (b : Byte) : (s.setST b).dt = s.dt := rfl
@[simp] theorem State.setST_st (b : Byte) : (s.setST b).st = b := rfl
@[simp] theorem State.setST_fb (b : Byte) : (s.setST b).fb = s.fb := rfl
@[simp] theorem State.setST_key (b : Byte) : (s.setST b).key = s.key := rfl
@[simp] theorem State.setST_halted (b : Byte) : (s.setST b).halted = s.halted := rfl
@[simp] theorem State.setST_fault (b : Byte) : (s.setST b).fault = s.fault := rfl
@[simp] theorem State.setST_rndCount (b : Byte) : (s.setST b).rndCount = s.rndCount := rfl

@[simp] theorem State.setStack_mem (l : List Word) : (s.setStack l).mem = s.mem := rfl
@[simp] theorem State.setStack_v (l : List Word) : (s.setStack l).v = s.v := rfl
@[simp] theorem State.setStack_i (l : List Word) : (s.setStack l).i = s.i := rfl
@[simp] theorem State.setStack_pc (l : List Word) : (s.setStack l).pc = s.pc := rfl
@[simp] theorem State.setStack_stack (l : List Word) : (s.setStack l).stack = l := rfl
@[simp] theorem State.setStack_dt (l : List Word) : (s.setStack l).dt = s.dt := rfl
@[simp] theorem State.setStack_st (l : List Word) : (s.setStack l).st = s.st := rfl
@[simp] theorem State.setStack_fb (l : List Word) : (s.setStack l).fb = s.fb := rfl
@[simp] theorem State.setStack_key (l : List Word) : (s.setStack l).key = s.key := rfl
@[simp] theorem State.setStack_halted (l : List Word) : (s.setStack l).halted = s.halted := rfl
@[simp] theorem State.setStack_fault (l : List Word) : (s.setStack l).fault = s.fault := rfl
@[simp] theorem State.setStack_rndCount (l : List Word) : (s.setStack l).rndCount = s.rndCount := rfl

@[simp] theorem State.setMem_mem (m : Memory) : (s.setMem m).mem = m := rfl
@[simp] theorem State.setMem_v (m : Memory) : (s.setMem m).v = s.v := rfl
@[simp] theorem State.setMem_i (m : Memory) : (s.setMem m).i = s.i := rfl
@[simp] theorem State.setMem_pc (m : Memory) : (s.setMem m).pc = s.pc := rfl
@[simp] theorem State.setMem_stack (m : Memory) : (s.setMem m).stack = s.stack := rfl
@[simp] theorem State.setMem_dt (m : Memory) : (s.setMem m).dt = s.dt := rfl
@[simp] theorem State.setMem_st (m : Memory) : (s.setMem m).st = s.st := rfl
@[simp] theorem State.setMem_fb (m : Memory) : (s.setMem m).fb = s.fb := rfl
@[simp] theorem State.setMem_key (m : Memory) : (s.setMem m).key = s.key := rfl
@[simp] theorem State.setMem_halted (m : Memory) : (s.setMem m).halted = s.halted := rfl
@[simp] theorem State.setMem_fault (m : Memory) : (s.setMem m).fault = s.fault := rfl
@[simp] theorem State.setMem_rndCount (m : Memory) : (s.setMem m).rndCount = s.rndCount := rfl

@[simp] theorem State.setFb_mem (fb : Framebuffer) : (s.setFb fb).mem = s.mem := rfl
@[simp] theorem State.setFb_v (fb : Framebuffer) : (s.setFb fb).v = s.v := rfl
@[simp] theorem State.setFb_i (fb : Framebuffer) : (s.setFb fb).i = s.i := rfl
@[simp] theorem State.setFb_pc (fb : Framebuffer) : (s.setFb fb).pc = s.pc := rfl
@[simp] theorem State.setFb_stack (fb : Framebuffer) : (s.setFb fb).stack = s.stack := rfl
@[simp] theorem State.setFb_dt (fb : Framebuffer) : (s.setFb fb).dt = s.dt := rfl
@[simp] theorem State.setFb_st (fb : Framebuffer) : (s.setFb fb).st = s.st := rfl
@[simp] theorem State.setFb_fb (fb : Framebuffer) : (s.setFb fb).fb = fb := rfl
@[simp] theorem State.setFb_key (fb : Framebuffer) : (s.setFb fb).key = s.key := rfl
@[simp] theorem State.setFb_halted (fb : Framebuffer) : (s.setFb fb).halted = s.halted := rfl
@[simp] theorem State.setFb_fault (fb : Framebuffer) : (s.setFb fb).fault = s.fault := rfl
@[simp] theorem State.setFb_rndCount (fb : Framebuffer) : (s.setFb fb).rndCount = s.rndCount := rfl

@[simp] theorem State.useRnd_mem : (s.useRnd).mem = s.mem := rfl
@[simp] theorem State.useRnd_v : (s.useRnd).v = s.v := rfl
@[simp] theorem State.useRnd_i : (s.useRnd).i = s.i := rfl
@[simp] theorem State.useRnd_pc : (s.useRnd).pc = s.pc := rfl
@[simp] theorem State.useRnd_stack : (s.useRnd).stack = s.stack := rfl
@[simp] theorem State.useRnd_dt : (s.useRnd).dt = s.dt := rfl
@[simp] theorem State.useRnd_st : (s.useRnd).st = s.st := rfl
@[simp] theorem State.useRnd_fb : (s.useRnd).fb = s.fb := rfl
@[simp] theorem State.useRnd_key : (s.useRnd).key = s.key := rfl
@[simp] theorem State.useRnd_halted : (s.useRnd).halted = s.halted := rfl
@[simp] theorem State.useRnd_fault : (s.useRnd).fault = s.fault := rfl
@[simp] theorem State.useRnd_rndCount : (s.useRnd).rndCount = s.rndCount + 1 := rfl

@[simp] theorem State.push_mem (a : Word) : (s.push a).mem = s.mem := rfl
@[simp] theorem State.push_v (a : Word) : (s.push a).v = s.v := rfl
@[simp] theorem State.push_i (a : Word) : (s.push a).i = s.i := rfl
@[simp] theorem State.push_pc (a : Word) : (s.push a).pc = s.pc := rfl
@[simp] theorem State.push_stack (a : Word) : (s.push a).stack = s.stack ++ [a] := rfl
@[simp] theorem State.push_dt (a : Word) : (s.push a).dt = s.dt := rfl
@[simp] theorem State.push_st (a : Word) : (s.push a).st = s.st := rfl
@[simp] theorem State.push_fb (a : Word) : (s.push a).fb = s.fb := rfl
@[simp] theorem State.push_key (a : Word) : (s.push a).key = s.key := rfl
@[simp] theorem State.push_halted (a : Word) : (s.push a).halted = s.halted := rfl
@[simp] theorem State.push_fault (a : Word) : (s.push a).fault = s.fault := rfl
@[simp] theorem State.push_rndCount (a : Word) : (s.push a).rndCount = s.rndCount := rfl

@[simp] theorem State.advance_mem : (s.advance).mem = s.mem := rfl
@[simp] theorem State.advance_v : (s.advance).v = s.v := rfl
@[simp] theorem State.advance_i : (s.advance).i = s.i := rfl
@[simp] theorem State.advance_pc : (s.advance).pc = s.pc + 2 := rfl
@[simp] theorem State.advance_stack : (s.advance).stack = s.stack := rfl
@[simp] theorem State.advance_dt : (s.advance).dt = s.dt := rfl
@[simp] theorem State.advance_st : (s.advance).st = s.st := rfl
@[simp] theorem State.advance_fb : (s.advance).fb = s.fb := rfl
@[simp] theorem State.advance_key : (s.advance).key = s.key := rfl
@[simp] theorem State.advance_halted : (s.advance).halted = s.halted := rfl
@[simp] theorem State.advance_fault : (s.advance).fault = s.fault := rfl
@[simp] theorem State.advance_rndCount : (s.advance).rndCount = s.rndCount := rfl

@[simp] theorem State.tick_mem : (s.tick).mem = s.mem := rfl
@[simp] theorem State.tick_v : (s.tick).v = s.v := rfl
@[simp] theorem State.tick_i : (s.tick).i = s.i := rfl
@[simp] theorem State.tick_pc : (s.tick).pc = s.pc := rfl
@[simp] theorem State.tick_stack : (s.tick).stack = s.stack := rfl
@[simp] theorem State.tick_dt : (s.tick).dt = tickTimer s.dt := rfl
@[simp] theorem State.tick_st : (s.tick).st = tickTimer s.st := rfl
@[simp] theorem State.tick_fb : (s.tick).fb = s.fb := rfl
@[simp] theorem State.tick_key : (s.tick).key = s.key := rfl
@[simp] theorem State.tick_halted : (s.tick).halted = s.halted := rfl
@[simp] theorem State.tick_fault : (s.tick).fault = s.fault := rfl
@[simp] theorem State.tick_rndCount : (s.tick).rndCount = s.rndCount := rfl

@[simp] theorem State.takeFault_mem (c : Fault) (w : Option Word) : (s.takeFault c w).mem = s.mem := rfl
@[simp] theorem State.takeFault_v (c : Fault) (w : Option Word) : (s.takeFault c w).v = s.v := rfl
@[simp] theorem State.takeFault_i (c : Fault) (w : Option Word) : (s.takeFault c w).i = s.i := rfl
@[simp] theorem State.takeFault_pc (c : Fault) (w : Option Word) : (s.takeFault c w).pc = s.pc := rfl
@[simp] theorem State.takeFault_stack (c : Fault) (w : Option Word) : (s.takeFault c w).stack = s.stack := rfl
@[simp] theorem State.takeFault_dt (c : Fault) (w : Option Word) : (s.takeFault c w).dt = s.dt := rfl
@[simp] theorem State.takeFault_st (c : Fault) (w : Option Word) : (s.takeFault c w).st = s.st := rfl
@[simp] theorem State.takeFault_fb (c : Fault) (w : Option Word) : (s.takeFault c w).fb = s.fb := rfl
@[simp] theorem State.takeFault_key (c : Fault) (w : Option Word) : (s.takeFault c w).key = s.key := rfl
@[simp] theorem State.takeFault_halted (c : Fault) (w : Option Word) : (s.takeFault c w).halted = true := rfl
@[simp] theorem State.takeFault_fault (c : Fault) (w : Option Word) : (s.takeFault c w).fault = some { cause := c, pc := s.pc, word := w } := rfl
@[simp] theorem State.takeFault_rndCount (c : Fault) (w : Option Word) : (s.takeFault c w).rndCount = s.rndCount := rfl

@[simp] theorem State.construct_mem : (s.construct).mem = [] := rfl
@[simp] theorem State.construct_v : (s.construct).v = Vector.replicate 16 0 := rfl
@[simp] theorem State.construct_i : (s.construct).i = 0 := rfl
@[simp] theorem State.construct_pc : (s.construct).pc = 0x200 := rfl
@[simp] theorem State.construct_stack : (s.construct).stack = [] := rfl
@[simp] theorem State.construct_dt : (s.construct).dt = 0 := rfl
@[simp] theorem State.construct_st : (s.construct).st = 0 := rfl
@[simp] theorem State.construct_fb : (s.construct).fb = Framebuffer.blank := rfl
@[simp] theorem State.construct_key : (s.construct).key = s.key := rfl
@[simp] theorem State.construct_halted : (s.construct).halted = false := rfl
@[simp] theorem State.construct_fault : (s.construct).fault = none := rfl
@[simp] theorem State.construct_rndCount : (s.construct).rndCount = s.rndCount := rfl

@[simp] theorem State.setKey_mem (k : Reg) (d : Bool) : (s.setKey k d).mem = s.mem := rfl
@[simp] theorem State.setKey_v (k : Reg) (d : Bool) : (s.setKey k d).v = s.v := rfl
@[simp] theorem State.setKey_i (k : Reg) (d : Bool) : (s.setKey k d).i = s.i := rfl
@[simp] theorem State.setKey_pc (k : Reg) (d : Bool) : (s.setKey k d).pc = s.pc := rfl
@[simp] theorem State.setKey_stack (k : Reg) (d : Bool) : (s.setKey k d).stack = s.stack := rfl
@[simp] theorem State.setKey_dt (k : Reg) (d : Bool) : (s.setKey k d).dt = s.dt := rfl
@[simp] theorem State.setKey_st (k : Reg) (d : Bool) : (s.setKey k d).st = s.st := rfl
@[simp] theorem State.setKey_fb (k : Reg) (d : Bool) : (s.setKey k d).fb = s.fb := rfl
@[simp] theorem State.setKey_key (k : Reg) (d : Bool) : (s.setKey k d).key = s.key.set k d := rfl
@[simp] theorem State.setKey_halted (k : Reg) (d : Bool) : (s.setKey k d).halted = s.halted := rfl
@[simp] theorem State.setKey_fault (k : Reg) (d : Bool) : (s.setKey k d).fault = s.fault := rfl
@[simp] theorem State.setKey_rndCount (k : Reg) (d : Bool) : (s.setKey k d).rndCount = s.rndCount := rfl

/-! ## Reading what was written -/

@[simp] theorem State.getV_setV_same (x : Reg) (b : Byte) : (s.setV x b).getV x = b := by
  simp [State.getV, State.setV, Vector.get_eq_getElem]

theorem State.getV_setV_ne {x z : Reg} (b : Byte) (h : z ≠ x) : (s.setV x b).getV z = s.getV z := by
  have : x.val ≠ z.val := fun e => h (Fin.ext e.symm)
  simp [State.getV, State.setV, Vector.get_eq_getElem, this]

theorem State.getV_setV (x z : Reg) (b : Byte) : (s.setV x b).getV z = if z = x then b else s.getV z := by
  split
  · next h => simp [h]
  · next h => exact s.getV_setV_ne b h

/-- After the two writes of R170 the flag register holds the flag, whatever x is. -/
@[simp] theorem State.getV_setVThenFlag_flag (x : Reg) (r f : Byte) : (s.setVThenFlag x r f).getV regF = f := by
  simp [State.setVThenFlag]

/-- After the two writes of R170 a destination other than VF holds the result. -/
theorem State.getV_setVThenFlag_dest {x : Reg} (r f : Byte) (h : x ≠ regF) : (s.setVThenFlag x r f).getV x = r := by
  simp [State.setVThenFlag, State.getV_setV_ne _ _ h]

theorem State.getV_setVThenFlag_ne {x z : Reg} (r f : Byte) (h : z ≠ x) (h' : z ≠ regF) :
    (s.setVThenFlag x r f).getV z = s.getV z := by
  simp [State.setVThenFlag, State.getV_setV_ne _ _ h, State.getV_setV_ne _ _ h']

@[simp] theorem State.setVThenFlag_mem (x : Reg) (r f : Byte) : (s.setVThenFlag x r f).mem = s.mem := rfl
@[simp] theorem State.setVThenFlag_i (x : Reg) (r f : Byte) : (s.setVThenFlag x r f).i = s.i := rfl
@[simp] theorem State.setVThenFlag_pc (x : Reg) (r f : Byte) : (s.setVThenFlag x r f).pc = s.pc := rfl
@[simp] theorem State.setVThenFlag_stack (x : Reg) (r f : Byte) : (s.setVThenFlag x r f).stack = s.stack := rfl
@[simp] theorem State.setVThenFlag_dt (x : Reg) (r f : Byte) : (s.setVThenFlag x r f).dt = s.dt := rfl
@[simp] theorem State.setVThenFlag_st (x : Reg) (r f : Byte) : (s.setVThenFlag x r f).st = s.st := rfl
@[simp] theorem State.setVThenFlag_fb (x : Reg) (r f : Byte) : (s.setVThenFlag x r f).fb = s.fb := rfl
@[simp] theorem State.setVThenFlag_key (x : Reg) (r f : Byte) : (s.setVThenFlag x r f).key = s.key := rfl
@[simp] theorem State.setVThenFlag_halted (x : Reg) (r f : Byte) : (s.setVThenFlag x r f).halted = s.halted := rfl
@[simp] theorem State.setVThenFlag_fault (x : Reg) (r f : Byte) : (s.setVThenFlag x r f).fault = s.fault := rfl
@[simp] theorem State.setVThenFlag_rndCount (x : Reg) (r f : Byte) : (s.setVThenFlag x r f).rndCount = s.rndCount := rfl

@[simp] theorem State.skipIf_mem (b : Bool) : (s.skipIf b).mem = s.mem := by cases b <;> rfl
@[simp] theorem State.skipIf_v (b : Bool) : (s.skipIf b).v = s.v := by cases b <;> rfl
@[simp] theorem State.skipIf_i (b : Bool) : (s.skipIf b).i = s.i := by cases b <;> rfl
@[simp] theorem State.skipIf_stack (b : Bool) : (s.skipIf b).stack = s.stack := by cases b <;> rfl
@[simp] theorem State.skipIf_dt (b : Bool) : (s.skipIf b).dt = s.dt := by cases b <;> rfl
@[simp] theorem State.skipIf_st (b : Bool) : (s.skipIf b).st = s.st := by cases b <;> rfl
@[simp] theorem State.skipIf_fb (b : Bool) : (s.skipIf b).fb = s.fb := by cases b <;> rfl
@[simp] theorem State.skipIf_key (b : Bool) : (s.skipIf b).key = s.key := by cases b <;> rfl
@[simp] theorem State.skipIf_halted (b : Bool) : (s.skipIf b).halted = s.halted := by cases b <;> rfl
@[simp] theorem State.skipIf_fault (b : Bool) : (s.skipIf b).fault = s.fault := by cases b <;> rfl
@[simp] theorem State.skipIf_rndCount (b : Bool) : (s.skipIf b).rndCount = s.rndCount := by cases b <;> rfl
@[simp] theorem State.skipIf_pc (b : Bool) : (s.skipIf b).pc = if b then s.pc + 2 else s.pc := by cases b <;> rfl

/-! ## Reads of a register, of a byte and of a fetch, past updates of other fields -/

@[simp] theorem State.getV_setI (z : Reg) (a : Word) : (s.setI a).getV z = s.getV z := rfl
@[simp] theorem State.getV_setPc (z : Reg) (a : Word) : (s.setPc a).getV z = s.getV z := rfl
@[simp] theorem State.getV_setDT (z : Reg) (b : Byte) : (s.setDT b).getV z = s.getV z := rfl
@[simp] theorem State.getV_setST (z : Reg) (b : Byte) : (s.setST b).getV z = s.getV z := rfl
@[simp] theorem State.getV_setStack (z : Reg) (l : List Word) : (s.setStack l).getV z = s.getV z := rfl
@[simp] theorem State.getV_setMem (z : Reg) (m : Memory) : (s.setMem m).getV z = s.getV z := rfl
@[simp] theorem State.getV_setFb (z : Reg) (fb : Framebuffer) : (s.setFb fb).getV z = s.getV z := rfl
@[simp] theorem State.getV_useRnd (z : Reg) : (s.useRnd).getV z = s.getV z := rfl
@[simp] theorem State.getV_push (z : Reg) (a : Word) : (s.push a).getV z = s.getV z := rfl
@[simp] theorem State.getV_advance (z : Reg) : (s.advance).getV z = s.getV z := rfl
@[simp] theorem State.getV_tick (z : Reg) : (s.tick).getV z = s.getV z := rfl
@[simp] theorem State.getV_takeFault (z : Reg) (c : Fault) (w : Option Word) : (s.takeFault c w).getV z = s.getV z := rfl
@[simp] theorem State.getV_setKey (z : Reg) (k : Reg) (d : Bool) : (s.setKey k d).getV z = s.getV z := rfl
@[simp] theorem State.getV_skipIf (z : Reg) (b : Bool) : (s.skipIf b).getV z = s.getV z := by cases b <;> rfl

@[simp] theorem State.readByte_setV (z : Nat) (x : Reg) (b : Byte) : (s.setV x b).readByte z = s.readByte z := rfl
@[simp] theorem State.readByte_setRegs (z : Nat) (v : Vector Byte 16) : (s.setRegs v).readByte z = s.readByte z := rfl
@[simp] theorem State.readByte_setI (z : Nat) (a : Word) : (s.setI a).readByte z = s.readByte z := rfl
@[simp] theorem State.readByte_setPc (z : Nat) (a : Word) : (s.setPc a).readByte z = s.readByte z := rfl
@[simp] theorem State.readByte_setDT (z : Nat) (b : Byte) : (s.setDT b).readByte z = s.readByte z := rfl
@[simp] theorem State.readByte_setST (z : Nat) (b : Byte) : (s.setST b).readByte z = s.readByte z := rfl
@[simp] theorem State.readByte_setStack (z : Nat) (l : List Word) : (s.setStack l).readByte z = s.readByte z := rfl
@[simp] theorem State.readByte_setFb (z : Nat) (fb : Framebuffer) : (s.setFb fb).readByte z = s.readByte z := rfl
@[simp] theorem State.readByte_useRnd (z : Nat) : (s.useRnd).readByte z = s.readByte z := rfl
@[simp] theorem State.readByte_push (z : Nat) (a : Word) : (s.push a).readByte z = s.readByte z := rfl
@[simp] theorem State.readByte_advance (z : Nat) : (s.advance).readByte z = s.readByte z := rfl
@[simp] theorem State.readByte_tick (z : Nat) : (s.tick).readByte z = s.readByte z := rfl
@[simp] theorem State.readByte_takeFault (z : Nat) (c : Fault) (w : Option Word) : (s.takeFault c w).readByte z = s.readByte z := rfl
@[simp] theorem State.readByte_setKey (z : Nat) (k : Reg) (d : Bool) : (s.setKey k d).readByte z = s.readByte z := rfl
@[simp] theorem State.readByte_skipIf (z : Nat) (b : Bool) : (s.skipIf b).readByte z = s.readByte z := by cases b <;> rfl
@[simp] theorem State.readByte_setVThenFlag (z : Nat) (x : Reg) (r f : Byte) :
    (s.setVThenFlag x r f).readByte z = s.readByte z := rfl
theorem State.readByte_setMem (z : Nat) (m : Memory) : (s.setMem m).readByte z = m.read z := rfl

end

end Sys2Proof.Machine
end

