-- ==== Sys2Proof/Laws/Operands.lean ====
section
/-! SUPPORT. The operand forms and the flags as numbers. -/

namespace Sys2Proof.Machine

@[simp] theorem toNat_addrOf (nnn : Imm12) : (addrOf nnn).toNat = nnn.toNat := by
  have := nnn.isLt
  simp [addrOf]; omega

theorem toNat_offsetTarget (s : State) (nnn : Imm12) : (offsetTarget s nnn).toNat = nnn.toNat + (s.getV 0).toNat := by
  have h1 := nnn.isLt
  have h2 := (s.getV 0).isLt
  simp only [offsetTarget, BitVec.toNat_add, toNat_addrOf, BitVec.toNat_setWidth]
  omega

theorem toNat_indexSum (s : State) (x : Reg) :
    (indexSum s x).toNat = (s.i.toNat + (s.getV x).toNat) % 65536 := by
  have h2 := (s.getV x).isLt
  simp only [indexSum, BitVec.toNat_add, BitVec.toNat_setWidth]
  omega

theorem toNat_glyphAddress (b : Byte) : (glyphAddress b).toNat = 0x50 + 5 * b.toNat := by
  have := b.isLt
  simp only [glyphAddress, BitVec.toNat_ofNat, Config.fontBase, Config.glyphSize]
  omega

/-- A key skip's register names a key exactly when it holds at most 0xF (R256). -/
theorem keyLevel_eq_none (s : State) (k : Byte) : keyLevel s k = none ↔ 0xF < k.toNat := by
  unfold keyLevel; split <;> simp <;> omega

theorem keyLevel_of_le (s : State) (k : Byte) (h : k.toNat < 16) : keyLevel s k = some (s.key.get ⟨k.toNat, h⟩) := by
  simp [keyLevel, h]

@[simp] theorem length_bcdDigits (b : Byte) : (bcdDigits b).length = 3 := rfl

@[simp] theorem length_regPrefix (s : State) (x : Reg) : (regPrefix s x).length = x.val + 1 := by
  simp only [regPrefix, List.length_take, Vector.length_toList]; omega

theorem getElem_regPrefix (s : State) (x : Reg) (k : Nat) (h : k < (regPrefix s x).length) :
    (regPrefix s x)[k] = s.getV ⟨k, by simp at h; omega⟩ := by
  simp [regPrefix, State.getV, Vector.get_eq_getElem]

/-- Register z after a run of bytes is written to the registers from k on (R205). -/
theorem get_putRegs (bs : List Byte) (v : Vector Byte 16) (k : Nat) (z : Reg) :
    (putRegs v k bs).get z =
      if h : k ≤ z.val ∧ z.val < k + bs.length then bs[z.val - k]'(by omega) else v.get z := by
  induction bs generalizing v k with
  | nil => simp [putRegs, show ¬ (k ≤ z.val ∧ z.val < k) by omega]
  | cons b bs ih =>
    rw [putRegs, ih]
    simp only [Vector.get_eq_getElem, List.length_cons]
    by_cases h1 : k + 1 ≤ z.val ∧ z.val < k + 1 + bs.length
    · rw [dif_pos h1, dif_pos (by omega)]
      simp [List.getElem_cons, show z.val - k ≠ 0 by omega, show z.val - k - 1 = z.val - (k + 1) by omega]
    · rw [dif_neg h1, Vector.getElem_setIfInBounds]
      by_cases h2 : k = z.val
      · subst h2; simp
      · rw [if_neg h2, dif_neg (by omega)]

theorem toNat_b2i (b : Bool) : (b2i b).toNat = if b then 1 else 0 := by cases b <;> rfl

theorem toNat_carryFlag (a b : Byte) : (carryFlag a b).toNat = if a.toNat + b.toNat > 255 then 1 else 0 := by
  simp [carryFlag, toNat_b2i]

theorem toNat_noBorrowFlag (a b : Byte) : (noBorrowFlag a b).toNat = if b.toNat ≤ a.toNat then 1 else 0 := by
  simp [noBorrowFlag, toNat_b2i]

theorem toNat_shiftRightFlag (a : Byte) : (shiftRightFlag a).toNat = a.toNat % 2 := by
  simp [shiftRightFlag, BitVec.toNat_and, Nat.and_one_is_mod]

theorem toNat_shiftLeftFlag (a : Byte) : (shiftLeftFlag a).toNat = a.toNat / 128 := by
  have := a.isLt
  simp [shiftLeftFlag, BitVec.toNat_and, Nat.and_one_is_mod, Nat.shiftRight_eq_div_pow]; omega

end Sys2Proof.Machine
end

