-- ==== Sys2Proof/Laws/Ops.lean ====
section
/-! SUPPORT. What each shared operation of the machine can do, said once: later proofs cite these. -/

namespace Sys2Proof.Machine

/-! ## Faults -/

/-- The state a raised fault leaves, from the state after fetch: pc back at the instruction, the core halted, the record
made (R276, R277). -/
def faulted (c : Fault) (i : Instr) (s : State) : State := (s.setPc (s.pc - 2)).takeFault c (some (encode i))

theorem raise_eq (c : Fault) (i : Instr) (s : State) : raise c i s = .next (faulted c i s) := rfl

/-- Raised after a fetch, a fault leaves the state of the cycle's start with the fault taken. -/
theorem faulted_advance (c : Fault) (i : Instr) (s : State) :
    faulted c i s.advance = s.takeFault c (some (encode i)) := by
  simp [faulted, State.advance, State.setPc, State.takeFault]

@[simp] theorem faulted_halted (c : Fault) (i : Instr) (s : State) : (faulted c i s).halted = true := rfl
@[simp] theorem faulted_pc (c : Fault) (i : Instr) (s : State) : (faulted c i s).pc = s.pc - 2 := rfl
@[simp] theorem faulted_mem (c : Fault) (i : Instr) (s : State) : (faulted c i s).mem = s.mem := rfl
@[simp] theorem faulted_v (c : Fault) (i : Instr) (s : State) : (faulted c i s).v = s.v := rfl
@[simp] theorem faulted_i (c : Fault) (j : Instr) (s : State) : (faulted c j s).i = s.i := rfl
@[simp] theorem faulted_stack (c : Fault) (i : Instr) (s : State) : (faulted c i s).stack = s.stack := rfl
@[simp] theorem faulted_dt (c : Fault) (i : Instr) (s : State) : (faulted c i s).dt = s.dt := rfl
@[simp] theorem faulted_st (c : Fault) (i : Instr) (s : State) : (faulted c i s).st = s.st := rfl
@[simp] theorem faulted_fb (c : Fault) (i : Instr) (s : State) : (faulted c i s).fb = s.fb := rfl
@[simp] theorem faulted_key (c : Fault) (i : Instr) (s : State) : (faulted c i s).key = s.key := rfl

/-! ## Fetch -/

/-- A fetch succeeds exactly when both its bytes are in memory (R121, R123). -/
theorem State.fetch_ok (s : State) (h : s.pc.toNat + 2 ≤ 0x1000) :
    s.fetch = .ok (packWord (s.readByte s.pc.toNat) (s.readByte (s.pc.toNat + 1))) := by
  simp [State.fetch, (rangeFault_read_eq_none s.pc.toNat 2).mpr (.inr h)]

theorem State.fetch_error (s : State) (h : 0x1000 < s.pc.toNat + 2) : s.fetch = .error .memoryOutOfRange := by
  cases hc : rangeFault readFault s.pc.toNat 2 with
  | none => have := (rangeFault_read_eq_none s.pc.toNat 2).mp hc; omega
  | some c => simp [State.fetch, hc, rangeFault_read_eq_some hc]

theorem State.fetch_cases {s : State} {w : Word} (h : s.fetch = .ok w) :
    s.pc.toNat + 2 ≤ 0x1000 ∧ w = packWord (s.readByte s.pc.toNat) (s.readByte (s.pc.toNat + 1)) := by
  by_cases hp : s.pc.toNat + 2 ≤ 0x1000
  · exact ⟨hp, by simpa [s.fetch_ok hp] using h.symm⟩
  · simp [s.fetch_error (by omega)] at h

/-! ## Loads and stores at I -/

/-- A store at I either writes its whole run or faults and writes nothing (R72). -/
theorem storeAtI_cases (i : Instr) (bs : List Byte) (s : State) :
    (∃ c, rangeFault writeFault s.i.toNat bs.length = some c ∧ storeAtI i bs s = .next (faulted c i s)) ∨
    (rangeFault writeFault s.i.toNat bs.length = none ∧
      storeAtI i bs s = .next (s.setMem (s.mem.writeBytes s.i.toNat bs))) := by
  unfold storeAtI
  cases h : rangeFault writeFault s.i.toNat bs.length with
  | none => exact .inr ⟨rfl, rfl⟩
  | some c => exact .inl ⟨c, rfl, rfl⟩

/-- A load at I either has its whole run or faults (R72). -/
theorem loadAtI_cases (i : Instr) (n : Nat) (s : State) (k : List Byte → State) :
    (0 < n ∧ 0x1000 < s.i.toNat + n ∧ loadAtI i n s k = .next (faulted .memoryOutOfRange i s)) ∨
    ((n = 0 ∨ s.i.toNat + n ≤ 0x1000) ∧ loadAtI i n s k = .next (k (s.mem.readBytes s.i.toNat n))) := by
  unfold loadAtI
  cases h : rangeFault readFault s.i.toNat n with
  | none => exact .inr ⟨(rangeFault_read_eq_none _ _).mp h, rfl⟩
  | some c =>
    have hn : ¬ (n = 0 ∨ s.i.toNat + n ≤ 0x1000) := fun hc => by
      simp [(rangeFault_read_eq_none _ _).mpr hc] at h
    exact .inl ⟨by omega, by omega, by rw [rangeFault_read_eq_some h]; rfl⟩

/-! ## The timer tick -/

/-- The tick counts down by one and stops at zero (R126). -/
theorem toNat_tickTimer (t : Byte) : (tickTimer t).toNat = t.toNat - 1 := by
  unfold tickTimer
  split
  · next h => simp [h]
  · next h => bv_omega

theorem State.endCycle_running {s : State} (h : s.halted = false) : s.endCycle = s.tick := by simp [State.endCycle, h]
theorem State.endCycle_halted {s : State} (h : s.halted = true) : s.endCycle = s := by simp [State.endCycle, h]
@[simp] theorem endOfCycle_next (t : State) : endOfCycle (.next t) = .next t.endCycle := rfl

end Sys2Proof.Machine
end

