-- ==== Sys2Proof/Laws/PerInstr.lean ====
section
/-! SUPPORT. The family `ClassOfWord`: the class of an instruction's word (30_encoding.md R95, R101), one lemma per
constructor. -/

namespace Sys2Proof.Laws.ClassOfWord

/-- The opcode class R101 gives an instruction. -/
def opClass : Instr → Nibble
  | .cls => 0x0
  | .ret => 0x0
  | .jp _ => 0x1
  | .call _ => 0x2
  | .seImm _ _ => 0x3
  | .sneImm _ _ => 0x4
  | .seReg _ _ => 0x5
  | .sneReg _ _ => 0x9
  | .ldImm _ _ => 0x6
  | .addImm _ _ => 0x7
  | .ldReg _ _ => 0x8
  | .or _ _ => 0x8
  | .and _ _ => 0x8
  | .xor _ _ => 0x8
  | .addReg _ _ => 0x8
  | .sub _ _ => 0x8
  | .subn _ _ => 0x8
  | .shr _ _ => 0x8
  | .shl _ _ => 0x8
  | .ldI _ => 0xA
  | .jpV0 _ => 0xB
  | .rnd _ _ => 0xC
  | .drw _ _ _ => 0xD
  | .skp _ => 0xE
  | .sknp _ => 0xE
  | .ldVxDt _ => 0xF
  | .ldDtVx _ => 0xF
  | .ldStVx _ => 0xF
  | .addI _ => 0xF
  | .ldF _ => 0xF
  | .ldB _ => 0xF
  | .ldMemFromRegs _ => 0xF
  | .ldRegsFromMem _ => 0xF
  | .ldVxK _ => 0xF

/-- The word of the instruction has the class R101 gives it. -/
def Statement (i : Instr) : Prop := fieldC (encode i) = opClass i

theorem cls : Statement .cls := rfl
theorem ret : Statement .ret := rfl
theorem jp (nnn : Imm12) : Statement (.jp nnn) := fieldC_wordNNN _ _
theorem call (nnn : Imm12) : Statement (.call nnn) := fieldC_wordNNN _ _
theorem seImm (x : Reg) (nn : Byte) : Statement (.seImm x nn) := fieldC_wordXNN _ _ _
theorem sneImm (x : Reg) (nn : Byte) : Statement (.sneImm x nn) := fieldC_wordXNN _ _ _
theorem seReg (x y : Reg) : Statement (.seReg x y) := fieldC_wordXYN _ _ _ _
theorem sneReg (x y : Reg) : Statement (.sneReg x y) := fieldC_wordXYN _ _ _ _
theorem ldImm (x : Reg) (nn : Byte) : Statement (.ldImm x nn) := fieldC_wordXNN _ _ _
theorem addImm (x : Reg) (nn : Byte) : Statement (.addImm x nn) := fieldC_wordXNN _ _ _
theorem ldReg (x y : Reg) : Statement (.ldReg x y) := fieldC_wordXYN _ _ _ _
theorem or (x y : Reg) : Statement (.or x y) := fieldC_wordXYN _ _ _ _
theorem and (x y : Reg) : Statement (.and x y) := fieldC_wordXYN _ _ _ _
theorem xor (x y : Reg) : Statement (.xor x y) := fieldC_wordXYN _ _ _ _
theorem addReg (x y : Reg) : Statement (.addReg x y) := fieldC_wordXYN _ _ _ _
theorem sub (x y : Reg) : Statement (.sub x y) := fieldC_wordXYN _ _ _ _
theorem subn (x y : Reg) : Statement (.subn x y) := fieldC_wordXYN _ _ _ _
theorem shr (x y : Reg) : Statement (.shr x y) := fieldC_wordXYN _ _ _ _
theorem shl (x y : Reg) : Statement (.shl x y) := fieldC_wordXYN _ _ _ _
theorem ldI (nnn : Imm12) : Statement (.ldI nnn) := fieldC_wordNNN _ _
theorem jpV0 (nnn : Imm12) : Statement (.jpV0 nnn) := fieldC_wordNNN _ _
theorem rnd (x : Reg) (nn : Byte) : Statement (.rnd x nn) := fieldC_wordXNN _ _ _
theorem drw (x y : Reg) (n : Nibble) : Statement (.drw x y n) := fieldC_wordXYN _ _ _ _
theorem skp (x : Reg) : Statement (.skp x) := fieldC_wordXNN _ _ _
theorem sknp (x : Reg) : Statement (.sknp x) := fieldC_wordXNN _ _ _
theorem ldVxDt (x : Reg) : Statement (.ldVxDt x) := fieldC_wordXNN _ _ _
theorem ldDtVx (x : Reg) : Statement (.ldDtVx x) := fieldC_wordXNN _ _ _
theorem ldStVx (x : Reg) : Statement (.ldStVx x) := fieldC_wordXNN _ _ _
theorem addI (x : Reg) : Statement (.addI x) := fieldC_wordXNN _ _ _
theorem ldF (x : Reg) : Statement (.ldF x) := fieldC_wordXNN _ _ _
theorem ldB (x : Reg) : Statement (.ldB x) := fieldC_wordXNN _ _ _
theorem ldMemFromRegs (x : Reg) : Statement (.ldMemFromRegs x) := fieldC_wordXNN _ _ _
theorem ldRegsFromMem (x : Reg) : Statement (.ldRegsFromMem x) := fieldC_wordXNN _ _ _
theorem ldVxK (x : Reg) : Statement (.ldVxK x) := fieldC_wordXNN _ _ _

end Sys2Proof.Laws.ClassOfWord
end

