-- ==== Sys2Proof/Tests/Slice0.lean ====
section
/-! SUPPORT. Tests of the model: words the well-formedness check refuses, every constructor's decoding from a word written
out from the spec's patterns, one-step tests whose expected values are rows of 95_test_vectors.md, and witnesses that the
hypotheses of the statements can be met. -/

namespace Sys2Proof.Tests

open Sys2Proof.Machine Sys2Proof.Rules

/-! ## Ill-formed words are refused (R96 to R100; rows T130, T16, T59, T19, T146, T133 of 95_test_vectors.md) -/

theorem test_class0_word_refused : wordWellFormed 0x0123 = false ∧ decode 0x0123 = .error .class0 := by decide
theorem test_class5_word_refused : wordWellFormed 0x5121 = false ∧ decode 0x5121 = .error .class5 := by decide
theorem test_class8_word_refused : wordWellFormed 0x8128 = false ∧ decode 0x8128 = .error .class8 := by decide
theorem test_class9_word_refused : wordWellFormed 0x912F = false ∧ decode 0x912F = .error .class9 := by decide
theorem test_classE_word_refused : wordWellFormed 0xE19F = false ∧ decode 0xE19F = .error .classE := by decide
theorem test_classF_word_refused : wordWellFormed 0xF100 = false ∧ decode 0xF100 = .error .classF := by decide
theorem test_half_word_refused : decodeBytes [0x12] = .error .truncated := by decide

/-! ## Decoding: words written out from the patterns of R101 -/

theorem test_decode_flow :
    decode 0b0000000011101110 = .ok .ret ∧ decode 0b0001101010111100 = .ok (.jp 0xABC) ∧
    decode 0b0010001000010000 = .ok (.call 0x210) ∧ decode 0b0011001101000010 = .ok (.seImm 3 0x42) ∧
    decode 0b0100001101000011 = .ok (.sneImm 3 0x43) ∧ decode 0b0101000100100000 = .ok (.seReg 1 2) ∧
    decode 0b1001000100100000 = .ok (.sneReg 1 2) ∧ decode 0b1011001100000000 = .ok (.jpV0 0x300) := by decide

theorem test_decode_alu :
    decode 0b0110101001111111 = .ok (.ldImm 0xA 0x7F) ∧ decode 0b0111101011111111 = .ok (.addImm 0xA 0xFF) ∧
    decode 0b1000000100100000 = .ok (.ldReg 1 2) ∧ decode 0b1000000100100001 = .ok (.or 1 2) ∧
    decode 0b1000000100100010 = .ok (.and 1 2) ∧ decode 0b1000000100100011 = .ok (.xor 1 2) ∧
    decode 0b1000000100100100 = .ok (.addReg 1 2) ∧ decode 0b1000000100100101 = .ok (.sub 1 2) ∧
    decode 0b1000000100100111 = .ok (.subn 1 2) ∧ decode 0b1000000111110110 = .ok (.shr 1 0xF) ∧
    decode 0b1000000100101110 = .ok (.shl 1 2) ∧ decode 0b1100000111110000 = .ok (.rnd 1 0xF0) := by decide

theorem test_decode_index_memory :
    decode 0b1010000100100011 = .ok (.ldI 0x123) ∧ decode 0b1111000100011110 = .ok (.addI 1) ∧
    decode 0b1111000100101001 = .ok (.ldF 1) ∧ decode 0b1111000100110011 = .ok (.ldB 1) ∧
    decode 0b1111001001010101 = .ok (.ldMemFromRegs 2) ∧ decode 0b1111001001100101 = .ok (.ldRegsFromMem 2) := by decide

theorem test_decode_display_input_timers :
    decode 0b0000000011100000 = .ok .cls ∧ decode 0b1101000100100101 = .ok (.drw 1 2 5) ∧
    decode 0b1110000110011110 = .ok (.skp 1) ∧ decode 0b1110000110100001 = .ok (.sknp 1) ∧
    decode 0b1111000100000111 = .ok (.ldVxDt 1) ∧ decode 0b1111000100010101 = .ok (.ldDtVx 1) ∧
    decode 0b1111000100011000 = .ok (.ldStVx 1) ∧ decode 0b1111001100001010 = .ok (.ldVxK 3) := by decide

/-- A table word is laid out high byte first. -/
theorem test_decode_table_word : decodeTableWord 16 0xD125 = some (.drw 1 2 5) ∧ decodeTableWord 16 0x0123 = none := by
  decide

/-! ## One step from small states

`after w s` is the state one cycle after `s` with the word `w` at its pc; expected values are those of the named rows. -/

/-- The reset state with some V registers set. -/
def withRegs (l : List (Reg × Byte)) : State := l.foldl (fun s xb => s.setV xb.1 xb.2) State.reset

/-- The state with bytes placed in memory from an address on. -/
def placed (s : State) (a : Nat) (bs : List Byte) : State := s.setMem (s.mem.writeBytes a bs)

/-- The state with a word at pc. -/
def ready (w : Nat) (s : State) : State := s.withFetchWord 16 w

/-- One cycle with a word at pc. -/
def after (w : Nat) (s : State) : State :=
  match step (ready w s) with
  | .next t => t
  | _ => s

/-- The row of the framebuffer as the numbers of its set columns. -/
def litRow (s : State) (y : Fin 32) : List (Fin 64) := (List.finRange 64).filter fun x => s.fb.cell x y

-- 40_cycle.md: T70, T71, T73, T74, T75, T76
theorem test_T70_last_word_fetches : (after 0x1ABC (State.reset.setPc 0xFFE)).pc = 0xABC := by decide
theorem test_T71_fetch_at_FFF_faults :
    step (State.reset.setPc 0xFFF) = .next (haltedWith (State.reset.setPc 0xFFF) .memoryOutOfRange none) := by rfl
theorem test_T73_odd_pc : (after 0x6A55 (State.reset.setPc 0x201)).getV 0xA = 0x55 ∧
    (after 0x6A55 (State.reset.setPc 0x201)).pc = 0x203 := by decide
theorem test_T74_no_tick_in_a_fault : let t := after 0x8008 ((State.reset.setDT 5).setST 2)
    t.fault = some ⟨.decodeFailure, 0x200, some 0x8008⟩ ∧ t.halted = true ∧ t.dt = 5 ∧ t.st = 2 ∧ t.pc = 0x200 := by decide
theorem test_T75_halted_stays : let t := after 0x8008 (State.reset.setDT 5); (after 0x6A55 t).dt = 5 ∧
    (after 0x6A55 t).getV 0xA = 0 ∧ (after 0x6A55 t).pc = 0x200 := by decide
theorem test_T76_self_jump_ticks : (after 0x1200 (State.reset.setDT 3)).pc = 0x200 ∧
    (after 0x1200 (State.reset.setDT 3)).dt = 2 := by decide

-- 41_flow.md: T1, T2, T3, T5, T6, T9 to T15, T17, T18, T21, T22
theorem test_T1_ret : (after 0x00EE (State.reset.setStack [0x3A4])).pc = 0x3A4 ∧
    (after 0x00EE (State.reset.setStack [0x3A4])).stack = [] := by decide
theorem test_T2_ret_underflow : (after 0x00EE State.reset).fault = some ⟨.stackUnderflow, 0x200, some 0x00EE⟩ := by decide
theorem test_T3_jp : (after 0x1ABC State.reset).pc = 0xABC := by decide
theorem test_T5_call_to_capacity : let t := after 0x2ABC (State.reset.setStack (List.replicate 15 0x300))
    t.pc = 0xABC ∧ t.stack = List.replicate 15 0x300 ++ [0x202] := by decide
theorem test_T6_call_overflow : let t := after 0x2ABC (State.reset.setStack (List.replicate 16 0x300))
    t.fault = some ⟨.stackOverflow, 0x200, some 0x2ABC⟩ ∧ t.stack.length = 16 ∧ t.pc = 0x200 := by decide
theorem test_T9_T10_seImm : (after 0x3342 (withRegs [(3, 0x42)])).pc = 0x204 ∧
    (after 0x3343 (withRegs [(3, 0x42)])).pc = 0x202 := by decide
theorem test_T11_T12_sneImm : (after 0x4342 (withRegs [(3, 0x42)])).pc = 0x202 ∧
    (after 0x4343 (withRegs [(3, 0x42)])).pc = 0x204 := by decide
theorem test_T13_T14_seReg : (after 0x5120 (withRegs [(1, 9), (2, 9)])).pc = 0x204 ∧
    (after 0x5120 (withRegs [(1, 9), (2, 8)])).pc = 0x202 := by decide
theorem test_T17_T18_sneReg : (after 0x9120 (withRegs [(1, 9), (2, 9)])).pc = 0x202 ∧
    (after 0x9120 (withRegs [(1, 9), (2, 8)])).pc = 0x204 := by decide
theorem test_T21_jpV0 : (after 0xB300 (withRegs [(0, 0x10)])).pc = 0x310 := by decide
theorem test_T22_jpV0_past_the_end : (after 0xBFFF (withRegs [(0, 0xFF)])).pc = 0x10FE ∧
    (after 0xBFFF (withRegs [(0, 0xFF)])).halted = false := by decide

-- 42_alu.md: T30 to T62
theorem test_T30_ldImm : (after 0x6A7F State.reset).getV 0xA = 0x7F := by decide
theorem test_T31_addImm_no_flag : let t := after 0x7AFF (withRegs [(0xA, 2), (0xF, 0x55)])
    t.getV 0xA = 1 ∧ t.getV 0xF = 0x55 := by decide
theorem test_T33_ldReg : let t := after 0x8120 (withRegs [(2, 0x77), (0xF, 0x55)])
    t.getV 1 = 0x77 ∧ t.getV 0xF = 0x55 := by decide
theorem test_T34_or : let t := after 0x8121 (withRegs [(1, 0xF0), (2, 0x0F), (0xF, 0x55)])
    t.getV 1 = 0xFF ∧ t.getV 0xF = 0x55 := by decide
theorem test_T35_and : (after 0x8122 (withRegs [(1, 0xF0), (2, 0x3C)])).getV 1 = 0x30 := by decide
theorem test_T36_xor : (after 0x8123 (withRegs [(1, 0xFF), (2, 0x0F)])).getV 1 = 0xF0 := by decide
theorem test_T42_addReg_vf_operand : let t := after 0x81F4 (withRegs [(1, 0x10), (0xF, 0xF5)])
    t.getV 1 = 0x05 ∧ t.getV 0xF = 1 := by decide
theorem test_T55_addReg_flag_wins : (after 0x8F14 (withRegs [(0xF, 0xFF), (1, 1)])).getV 0xF = 1 := by decide
theorem test_T43_sub_equal : let t := after 0x8125 (withRegs [(1, 5), (2, 5)]); t.getV 1 = 0 ∧ t.getV 0xF = 1 := by decide
theorem test_T44_sub_borrow : let t := after 0x8125 (withRegs [(2, 1), (0xF, 1)]); t.getV 1 = 0xFF ∧ t.getV 0xF = 0 := by
  decide
theorem test_T46_subn : let t := after 0x8127 (withRegs [(1, 3), (2, 5)]); t.getV 1 = 2 ∧ t.getV 0xF = 1 := by decide
theorem test_T47_subn_borrow : let t := after 0x8127 (withRegs [(1, 5), (2, 3), (0xF, 1)])
    t.getV 1 = 0xFE ∧ t.getV 0xF = 0 := by decide
theorem test_T51_shr_ignores_y : let t := after 0x81F6 (withRegs [(1, 3), (0xF, 0x77)])
    t.getV 1 = 1 ∧ t.getV 0xF = 1 := by decide
theorem test_T57_shr_vf : (after 0x8F06 (withRegs [(0xF, 3)])).getV 0xF = 1 := by decide
theorem test_T54_shl : let t := after 0x812E (withRegs [(1, 0xC0), (2, 1)])
    t.getV 1 = 0x80 ∧ t.getV 0xF = 1 ∧ t.getV 2 = 1 := by decide
theorem test_T58_shl_vf : (after 0x8F0E (withRegs [(0xF, 0x40)])).getV 0xF = 0 := by decide
theorem test_T61_rnd_masks_the_free_byte : (after 0xC1F0 State.reset).getV 1 = Config.rnd 0 &&& 0xF0 := rfl
theorem test_T62_rnd_zero_mask : (after 0xC100 (withRegs [(1, 9)])).getV 1 = 0 := by
  show Config.rnd 0 &&& 0 = 0
  simp

-- 43_index_memory.md: T80 to T109
theorem test_T80_ldI : (after 0xA123 State.reset).i = 0x123 := by decide
theorem test_T81_T82_addI : (after 0xF11E ((withRegs [(1, 1), (0xF, 0x55)]).setI 0x0FFF)).i = 0x1000 ∧
    (after 0xF11E ((withRegs [(1, 1)]).setI 0xFFFF)).i = 0 := by decide
theorem test_T84_T85_ldF : (after 0xF129 (withRegs [(1, 0xA)])).i = 0x82 ∧
    (after 0xF129 (withRegs [(1, 0xFF)])).i = 0x54B := by decide
theorem test_T86_bcd : (after 0xF133 ((withRegs [(1, 157)]).setI 0x300)).mem.readBytes 0x300 3 = [1, 5, 7] := by decide
theorem test_T90_bcd_font_fault : let t := after 0xF133 ((withRegs [(1, 255)]).setI 0x04E)
    t.fault = some ⟨.fontRegionWrite, 0x200, some 0xF133⟩ ∧ t.readByte 0x04E = 0 ∧ t.readByte 0x050 = 0xF0 := by decide
theorem test_T102_dump_all : (after 0xFF55 ((withRegs [(0xF, 0x5A)]).setI 0xFF0)).readByte 0xFFF = 0x5A := by decide
theorem test_T103_dump_out_of_range : (after 0xFF55 (State.reset.setI 0xFF1)).fault =
    some ⟨.memoryOutOfRange, 0x200, some 0xFF55⟩ := by decide
theorem test_T105_load : let t := after 0xF265 (placed (State.reset.setI 0x300) 0x300 [1, 5, 7, 9])
    t.getV 0 = 1 ∧ t.getV 1 = 5 ∧ t.getV 2 = 7 ∧ t.getV 3 = 0 ∧ t.i = 0x300 := by decide
theorem test_T107_load_out_of_range : let t := after 0xF165 ((withRegs [(0, 9)]).setI 0xFFF)
    t.fault = some ⟨.memoryOutOfRange, 0x200, some 0xF165⟩ ∧ t.getV 0 = 9 := by decide

-- 44_display.md: T110, T112, T116
theorem test_T110_cls : litRow (after 0x00E0 (State.reset.setFb (State.reset.fb.toggle 63 31))) 31 = [] := by decide
theorem test_T112_draw_wraps : let t := after 0xD011 (placed ((withRegs [(0, 0x3C), (1, 0x1F)]).setI 0x300) 0x300 [0xFF])
    litRow t 31 = [0, 1, 2, 3, 60, 61, 62, 63] ∧ t.getV 0xF = 0 := by decide
theorem test_T114_draw_collides :
    let t := after 0xD011 (placed ((State.reset.setFb ((State.reset.fb.toggle 0 0).toggle 1 0)).setI 0x300) 0x300 [0x80])
    litRow t 0 = [1] ∧ t.getV 0xF = 1 := by decide

-- 45_input_timers.md: T120 to T145
theorem test_T140_T144_skp : (after 0xE19E ((withRegs [(1, 5)]).setKey 5 true)).pc = 0x204 ∧
    (after 0xE19E ((withRegs [(1, 0xF)]).setKey 0xF true)).pc = 0x204 := by decide
theorem test_T145_skp_no_key : (after 0xE19E ((withRegs [(1, 0x10)]).setKey 0 true)).fault =
    some ⟨.keypadIndexOutOfRange, 0x200, some 0xE19E⟩ := by decide
theorem test_T142_T143_sknp : (after 0xE1A1 ((withRegs [(1, 5)]).setKey 5 true)).pc = 0x202 ∧
    (after 0xE1A1 (withRegs [(1, 5)])).pc = 0x204 := by decide
theorem test_T120_get_dt : let t := after 0xF107 (State.reset.setDT 7); t.getV 1 = 7 ∧ t.dt = 6 := by decide
theorem test_T122_T123_set_dt : (after 0xF115 (withRegs [(1, 9)])).dt = 8 ∧
    (after 0xF115 (State.reset.setDT 5)).dt = 0 := by decide
theorem test_T125_set_st : (after 0xF118 ((withRegs [(1, 0x20)]).setST 3)).st = 0x1F := by decide
theorem test_T127_block_skips_key_F : let t := after 0xF10A ((withRegs [(1, 9)]).setKey 0xF true)
    t.pc = 0x200 ∧ t.getV 1 = 9 := by decide
theorem test_T128_block_lowest_key : let t := after 0xF10A ((State.reset.setKey 2 true).setKey 7 true)
    t.getV 1 = 2 ∧ t.pc = 0x202 := by decide

-- 10_state.md R38, R47: the outputs after T114 and T6
theorem test_outputs : (State.reset.setFb (State.reset.fb.toggle 63 31)).fbPixel 2047 = 0xFF ∧
    State.reset.fbPixel 0 = 0x00 ∧ State.reset.faultCause = 0 ∧
    (after 0x2ABC (State.reset.setStack (List.replicate 16 0x300))).faultCause = 2 := by decide

/-! ## Witnesses: concrete states and operands that meet the hypotheses of the statements

`atLast w` has the word at 0xFFE, the last address a word can be fetched from. -/

/-- The reset state with pc at 0xFFE and a word there. -/
def atLast (w : Nat) : State := ready w (State.reset.setPc 0xFFE)

/-- A halted state: the reset state's memory at 0x200 holds 0x0000, a decode failure. -/
def stopped : State := haltedWith State.reset .decodeFailure (some 0)

theorem witness_EncodeOfDecoded : decode 0x81F6 = .ok (.shr 1 0xF) := by decide
theorem witness_RowsShareNoWord : ∃ r ∈ opRows, r.matchesWord 0x00EE = true := by decide

theorem witness_StepRuns : ∃ t, AtInstr (atLast 0x6A7F) (.ldImm 0xA 0x7F) ∧
    exec (.ldImm 0xA 0x7F) ((atLast 0x6A7F).setPc ((atLast 0x6A7F).pc + 2)) = .next t := ⟨_, by decide, rfl⟩
theorem witness_StepRuns_fault : ∃ t, AtInstr (ready 0x00EE State.reset) .ret ∧
    exec .ret ((ready 0x00EE State.reset).setPc 0x202) = .next t ∧ t.halted = true := ⟨_, by decide, rfl, rfl⟩
theorem witness_FetchOutside : (State.reset.setPc 0xFFF).running ∧ 0xFFF ≤ (State.reset.setPc 0xFFF).pc.toNat ∧
    (State.reset.setPc 0xFFFF).running ∧ 0xFFF ≤ (State.reset.setPc 0xFFFF).pc.toNat := by decide
theorem witness_Undecodable : (atLast 0x8128).running ∧ (atLast 0x8128).pc.toNat ≤ 0xFFE ∧
    wordWellFormed (wordAtPc (atLast 0x8128)) = false := by decide
theorem witness_Halted : stopped.halted = true := rfl
theorem witness_FaultingCycle : ∃ t, State.reset.running ∧ step State.reset = .next t ∧ t.halted = true :=
  ⟨_, rfl, rfl, rfl⟩

theorem witness_Faults_stack :
    AtInstr (ready 0x00EE State.reset) .ret ∧ stopCause (ready 0x00EE State.reset) .ret = some .stackUnderflow ∧
    (let s := ready 0x2ABC (State.reset.setStack (List.replicate 16 0x300))
     AtInstr s (.call 0xABC) ∧ stopCause s (.call 0xABC) = some .stackOverflow) := by decide
theorem witness_Faults_key :
    (let s := ready 0xE19E (withRegs [(1, 0x10)])
     AtInstr s (.skp 1) ∧ stopCause s (.skp 1) = some .keypadIndexOutOfRange) ∧
    (let s := ready 0xE1A1 (withRegs [(1, 0x10)])
     AtInstr s (.sknp 1) ∧ stopCause s (.sknp 1) = some .keypadIndexOutOfRange) := by decide
theorem witness_Faults_bcd :
    (let s := ready 0xF133 (State.reset.setI 0xFFE); AtInstr s (.ldB 1) ∧ stopCause s (.ldB 1) = some .memoryOutOfRange) ∧
    (let s := ready 0xF133 (State.reset.setI 0x4E); AtInstr s (.ldB 1) ∧ stopCause s (.ldB 1) = some .fontRegionWrite) ∧
    (let s := ready 0xF133 (State.reset.setI 0x9F); AtInstr s (.ldB 1) ∧ stopCause s (.ldB 1) = some .fontRegionWrite) ∧
    (let s := ready 0xF133 (State.reset.setI 0xFFD); AtInstr s (.ldB 1) ∧ stopCause s (.ldB 1) = none) := by decide
theorem witness_Faults_dump_load_draw :
    (let s := ready 0xFF55 (State.reset.setI 0xFF1)
     AtInstr s (.ldMemFromRegs 0xF) ∧ stopCause s (.ldMemFromRegs 0xF) = some .memoryOutOfRange) ∧
    (let s := ready 0xF055 (State.reset.setI 0x50)
     AtInstr s (.ldMemFromRegs 0) ∧ stopCause s (.ldMemFromRegs 0) = some .fontRegionWrite) ∧
    (let s := ready 0xF165 (State.reset.setI 0xFFF)
     AtInstr s (.ldRegsFromMem 1) ∧ stopCause s (.ldRegsFromMem 1) = some .memoryOutOfRange) ∧
    (let s := ready 0xD013 (State.reset.setI 0xFFE)
     AtInstr s (.drw 0 1 3) ∧ stopCause s (.drw 0 1 3) = some .memoryOutOfRange) ∧
    (let s := ready 0xD010 (State.reset.setI 0xFFFF); AtInstr s (.drw 0 1 0) ∧ stopCause s (.drw 0 1 0) = none) := by decide

theorem witness_Timers_set : ∃ t, AtInstr (ready 0xF115 (withRegs [(1, 9)])) (.ldDtVx 1) ∧
    step (ready 0xF115 (withRegs [(1, 9)])) = .next t ∧ t.running := ⟨_, by decide, rfl, rfl⟩
theorem witness_Timers_sound : ∃ t, AtInstr (ready 0xF118 (withRegs [(1, 1)])) (.ldStVx 1) ∧
    step (ready 0xF118 (withRegs [(1, 1)])) = .next t ∧ t.running := ⟨_, by decide, rfl, rfl⟩
theorem witness_Timers_get : ∃ t, AtInstr (ready 0xF107 (State.reset.setDT 1)) (.ldVxDt 1) ∧
    step (ready 0xF107 (State.reset.setDT 1)) = .next t ∧ t.running := ⟨_, by decide, rfl, rfl⟩

theorem witness_PcAfter_jumps : ∃ t u, AtInstr (ready 0x1ABC State.reset) (.jp 0xABC) ∧
    step (ready 0x1ABC State.reset) = .next t ∧ t.running ∧ AtInstr (ready 0xBFFF (withRegs [(0, 0xFF)])) (.jpV0 0xFFF) ∧
    step (ready 0xBFFF (withRegs [(0, 0xFF)])) = .next u ∧ u.running := ⟨_, _, by decide, rfl, rfl, by decide, rfl, rfl⟩
theorem witness_PcAfter_call_ret : ∃ t u, AtInstr (ready 0x2ABC State.reset) (.call 0xABC) ∧
    step (ready 0x2ABC State.reset) = .next t ∧ t.running ∧ AtInstr (ready 0x00EE (State.reset.setStack [0x1000])) .ret ∧
    step (ready 0x00EE (State.reset.setStack [0x1000])) = .next u ∧ u.running :=
  ⟨_, _, by decide, rfl, rfl, by decide, rfl, rfl⟩
theorem witness_PcAfter_block : ∃ t u, AtInstr (ready 0xF10A (State.reset.setKey 0xE true)) (.ldVxK 1) ∧
    step (ready 0xF10A (State.reset.setKey 0xE true)) = .next t ∧ t.running ∧
    someScannedKey (State.reset.setKey 0xE true) ∧ AtInstr (ready 0xF10A (State.reset.setKey 0xF true)) (.ldVxK 1) ∧
    step (ready 0xF10A (State.reset.setKey 0xF true)) = .next u ∧ u.running ∧
    ¬ someScannedKey (State.reset.setKey 0xF true) :=
  ⟨_, _, by decide, rfl, rfl, ⟨0xE, by decide, rfl⟩, by decide, rfl, rfl, by
    rintro ⟨k, hk, hd⟩
    revert hk hd; revert k; decide⟩
theorem witness_PcAfter_last_word : ∃ t, AtInstr (atLast 0x30FF) (.seImm 0 0xFF) ∧ step (atLast 0x30FF) = .next t ∧
    t.running := ⟨_, by decide, rfl, rfl⟩

/-- A state with the delay timer set meets the invariant. -/
theorem witness_Inv : (State.reset.setDT 1).Inv :=
  ⟨⟨List.Pairwise.nil, fun _ h => by cases h⟩, fun _ _ => rfl, ⟨by decide, fun _ h => by cases h⟩, by decide,
    by simp [State.faultSound, State.reset, State.setDT]⟩
theorem witness_StepKeepsInv : ∃ t, (State.reset.setDT 1).Inv ∧ step (State.reset.setDT 1) = .next t :=
  ⟨_, witness_Inv, rfl⟩
theorem witness_HostRunKeepsInv : ∃ t, (State.reset.setDT 1).Inv ∧
    hostRun (State.reset.setDT 1) [.keypad 3 true, .cycle, .launch [0x12, 0x00], .cycle] = .next t := ⟨_, witness_Inv, rfl⟩
theorem witness_OnlyLaunch : ∃ t, stopped.halted = true ∧ (∀ e ∈ [HostEvent.cycle, .keypad 1 true], isLaunch e = false) ∧
    hostRun stopped [.cycle, .keypad 1 true] = .next t := ⟨_, rfl, by decide, rfl⟩
theorem witness_Launch : (List.replicate 3584 (0x12 : Byte)).length ≤ 3584 ∧
    3584 < (List.replicate 3585 (0x12 : Byte)).length :=
  ⟨Nat.le_of_eq List.length_replicate, by rw [List.length_replicate]; decide⟩

theorem witness_Call : (State.reset.setStack (List.replicate 15 0x300)).stack.length < 16 ∧
    (State.reset.setStack (List.replicate 16 0x300)).stack.length = 16 := by decide
theorem witness_Ret : (State.reset.setStack [0x300, 0x1000]).stack = [0x300] ++ [0x1000] ∧ State.reset.stack = [] := by
  decide
theorem witness_RegisterSkips : skipHolds (withRegs [(3, 0x42)]) (.seImm 3 0x42) = some true ∧
    skipHolds (withRegs [(3, 0x42)]) (.sneImm 3 0x42) = some false ∧ skipHolds State.reset (.seReg 1 2) = some true ∧
    skipHolds (withRegs [(1, 9)]) (.sneReg 1 2) = some true := by decide
theorem witness_KeySkips : ((withRegs [(1, 0xF)]).getV 1).toNat = (0xF : Reg).val ∧
    0xF < ((withRegs [(1, 0x10)]).getV 1).toNat := by decide
theorem witness_SkipDistance : (let s := ready 0xE1A1 (withRegs [(1, 0xF)])
      AtInstr s (.sknp 1) ∧ skipHolds s (.sknp 1) = some true) ∧
    (AtInstr (atLast 0x30FF) (.seImm 0 0xFF) ∧ skipHolds (atLast 0x30FF) (.seImm 0 0xFF) = some false) := by decide
theorem witness_Plain : plainResult State.reset (.ldImm 0xF 9) = some (0xF, 9) ∧
    plainResult (withRegs [(2, 0xFE)]) (.addImm 2 3) = some (2, 1) ∧ plainResult State.reset (.ldReg 1 2) = some (1, 0) ∧
    plainResult (withRegs [(1, 0xF0)]) (.or 1 1) = some (1, 0xF0) ∧ plainResult State.reset (.and 1 2) = some (1, 0) ∧
    plainResult (withRegs [(1, 0xAB)]) (.xor 1 1) = some (1, 0) := by decide
theorem witness_Flag : flagResult (withRegs [(1, 0x80)]) (.addReg 1 1) = some (1, 0, 1) ∧
    flagResult (withRegs [(1, 3), (2, 5)]) (.sub 1 2) = some (1, 254, 0) ∧
    flagResult (withRegs [(1, 5), (2, 3)]) (.subn 1 2) = some (1, 254, 0) ∧
    flagResult (withRegs [(0xF, 3)]) (.shr 0xF 0) = some (0xF, 1, 1) ∧
    flagResult (withRegs [(4, 0x81)]) (.shl 4 0) = some (4, 2, 1) := by decide
theorem witness_Bcd : ((0xFFD : Word).toNat + 2 ≤ 0xFFF ∧ 0x9F < (0xFFD : Word).toNat) ∧
    ((State.reset.setI 0x4D).i.toNat + 2 ≤ 0xFFF ∧ (State.reset.setI 0x4D).i.toNat + 2 < 0x50) := by decide
theorem witness_Dump : ((State.reset.setI 0xFF0).i.toNat + (0xF : Reg).val ≤ 0xFFF ∧ 0x9F < (State.reset.setI 0xFF0).i.toNat) ∧
    ((State.reset.setI 0x40).i.toNat + (0xF : Reg).val < 0x50) ∧ 0x9F < (State.reset.setI 0xA0).i.toNat := by decide
theorem witness_Load : (State.reset.setI 0xFF0).i.toNat + (0xF : Reg).val ≤ 0xFFF := by decide
theorem witness_LoadAfterDump : ∃ t, exec (.ldMemFromRegs 3) ((withRegs [(3, 0x44)]).setI 0x300) = .next t ∧
    t.halted = ((withRegs [(3, 0x44)]).setI 0x300).halted ∧ ((withRegs [(3, 0x44)]).setI 0x300).running ∧
    (t.setV 3 0).i = t.i ∧ (t.setV 3 0).mem = t.mem := ⟨_, rfl, rfl, rfl, rfl, rfl⟩
theorem witness_FetchSees : ∃ t, (1 : Reg).val = (0 : Reg).val + 1 ∧ (1 : Reg) ≤ 1 ∧
    ((withRegs [(0, 0x70)]).setI 0x200).pc.toNat = ((withRegs [(0, 0x70)]).setI 0x200).i.toNat + (0 : Reg).val ∧
    ((withRegs [(0, 0x70)]).setI 0x200).running ∧
    exec (.ldMemFromRegs 1) ((withRegs [(0, 0x70)]).setI 0x200) = .next t ∧ t.running :=
  ⟨_, rfl, by decide, by decide, rfl, rfl, rfl⟩
theorem witness_Draw : SpriteInMemory (State.reset.setI 0xFFFF) 0 ∧ SpriteInMemory (State.reset.setI 0xFFD) 3 := by decide
theorem witness_DrawTwice : ∃ t, SpriteInMemory (State.reset.setI 0x50) 5 ∧ (0 : Reg) ≠ 0xF ∧ (1 : Reg) ≠ 0xF ∧
    exec (.drw 0 1 5) (State.reset.setI 0x50) = .next t ∧ spriteCovers (State.reset.setI 0x50) 0 1 5 0 0 = true ∧
    t.fb.cell 0 0 = true := ⟨_, by decide, by decide, by decide, rfl, by decide, by decide⟩
theorem witness_Pixel : (2047 : Fin 2048).val = (31 : Fin 32).val * 64 + (63 : Fin 64).val := by decide
theorem witness_Block_key : (0xE : Reg) ≠ 0xF ∧ (State.reset.setKey 0xE true).key.get 0xE = true ∧
    ∀ j, j < (0xE : Reg) → (State.reset.setKey 0xE true).key.get j = false := by decide
theorem witness_OnlyThree : ∃ t, (∀ x, Instr.jp 0x300 ≠ .skp x ∧ Instr.jp 0x300 ≠ .sknp x ∧ Instr.jp 0x300 ≠ .ldVxK x) ∧
    exec (.jp 0x300) State.reset = .next t := ⟨_, by simp, rfl⟩
theorem witness_Stored : ∃ t, exec (.ldB 1) (State.reset.setI 0x300) = .next t ∧
    storedRange (State.reset.setI 0x300) (.ldB 1) = some (0x300, 3) ∧ storedRange State.reset (.jp 0) = none :=
  ⟨_, rfl, by decide, rfl⟩
theorem witness_Writers : ∃ t, exec (.jp 0x300) State.reset = .next t ∧
    (∀ x n, Instr.jp 0x300 ≠ .ldI n ∧ Instr.jp 0x300 ≠ .addI x ∧ Instr.jp 0x300 ≠ .ldF x) ∧
    (∀ n, Instr.jp 0x300 ≠ .call n ∧ Instr.jp 0x300 ≠ .ret) ∧ (∀ x, Instr.jp 0x300 ≠ .ldDtVx x) ∧
    (∀ x, Instr.jp 0x300 ≠ .ldStVx x) ∧ (∀ x y n, Instr.jp 0x300 ≠ .cls ∧ Instr.jp 0x300 ≠ .drw x y n) ∧
    (∀ x n, Instr.jp 0x300 ≠ .rnd x n) := ⟨_, rfl, by simp, by simp, by simp, by simp, by simp, by simp⟩
theorem witness_Font : ∃ t, step (ready 0xF055 (State.reset.setI 0x50)) = .next t ∧
    (0x50 ≤ 0x50 ∧ 0x50 ≤ 0x9F) ∧ (0x50 ≤ 0x9F ∧ 0x9F ≤ 0x9F) := ⟨_, rfl, by decide, by decide⟩
theorem witness_SelfJump : AtInstr (ready 0x1200 State.reset) (.jp 0x200) ∧
    (0x200 : Imm12).toNat = (ready 0x1200 State.reset).pc.toNat := by decide

end Sys2Proof.Tests
end

section
/-! PROOF of O12. The execute stage answers a next state for every instruction: the meanings that can fault take the
fault (log entry 2). The step then answers one on each of its four ways through the cycle of R129. -/

namespace Sys2Proof.Machine

/-! ## The execute stage: the meanings with more than one outcome -/

theorem storeAtI_exists_next (i : Instr) (bs : List Byte) (s : State) : ∃ t, storeAtI i bs s = .next t := by
  obtain ⟨_, _, h⟩ | ⟨_, h⟩ := storeAtI_cases i bs s
  · exact ⟨_, h⟩
  · exact ⟨_, h⟩

theorem loadAtI_exists_next (i : Instr) (n : Nat) (s : State) (k : List Byte → State) :
    ∃ t, loadAtI i n s k = .next t := by
  obtain ⟨_, _, h⟩ | ⟨_, h⟩ := loadAtI_cases i n s k
  · exact ⟨_, h⟩
  · exact ⟨_, h⟩

theorem execRet_exists_next (s : State) : ∃ t, execRet s = .next t := by
  unfold execRet
  split
  · exact ⟨_, raise_eq ..⟩
  · exact ⟨_, rfl⟩

theorem execCall_exists_next (nnn : Imm12) (s : State) : ∃ t, execCall nnn s = .next t := by
  unfold execCall
  split
  · exact ⟨_, raise_eq ..⟩
  · exact ⟨_, rfl⟩

theorem execSkp_exists_next (x : Reg) (s : State) : ∃ t, execSkp x s = .next t := by
  unfold execSkp
  split
  · exact ⟨_, raise_eq ..⟩
  · exact ⟨_, rfl⟩

theorem execSknp_exists_next (x : Reg) (s : State) : ∃ t, execSknp x s = .next t := by
  unfold execSknp
  split
  · exact ⟨_, raise_eq ..⟩
  · exact ⟨_, rfl⟩

theorem execLdVxK_exists_next (x : Reg) (s : State) : ∃ t, execLdVxK x s = .next t := by
  unfold execLdVxK
  split
  · exact ⟨_, rfl⟩
  · exact ⟨_, rfl⟩

/-- No instruction's execute stage stops the machine; the meanings not named here have one outcome only. -/
theorem exec_exists_next (i : Instr) (s : State) : ∃ t, exec i s = .next t := by
  cases i with
  | ret => exact execRet_exists_next s
  | call nnn => exact execCall_exists_next nnn s
  | drw x y n => exact loadAtI_exists_next ..
  | skp x => exact execSkp_exists_next x s
  | sknp x => exact execSknp_exists_next x s
  | ldB x => exact storeAtI_exists_next ..
  | ldMemFromRegs x => exact storeAtI_exists_next ..
  | ldRegsFromMem x => exact loadAtI_exists_next _ _ s fun bs => s.setRegs (putRegs s.v 0 bs)
  | ldVxK x => exact execLdVxK_exists_next x s
  | _ => exact ⟨_, rfl⟩

/-! ## The step: one equation for each way through the cycle -/

theorem step_of_halted {s : State} (h : s.halted = true) : step s = .next s := by simp [step, h]

theorem step_of_fetch_error {s : State} (h : s.halted = false) {c : Fault} (hf : s.fetch = .error c) :
    step s = .next (s.takeFault c none) := by simp [step, h, hf]

theorem step_of_decode_error {s : State} (h : s.halted = false) {w : Word} (hf : s.fetch = .ok w)
    {r : DecodeReject} (hd : decode w = .error r) : step s = .next (s.takeFault .decodeFailure (some w)) := by
  simp [step, h, hf, hd]

theorem step_of_decode_ok {s : State} (h : s.halted = false) {w : Word} (hf : s.fetch = .ok w)
    {i : Instr} (hd : decode w = .ok i) : step s = endOfCycle (exec i s.advance) := by
  simp [step, h, hf, hd]

theorem step_exists_next (s : State) : ∃ t, step s = .next t := by
  cases h : s.halted with
  | true => exact ⟨_, step_of_halted h⟩
  | false =>
    cases hf : s.fetch with
    | error c => exact ⟨_, step_of_fetch_error h hf⟩
    | ok w =>
      cases hd : decode w with
      | error r => exact ⟨_, step_of_decode_error h hf hd⟩
      | ok i =>
        obtain ⟨t, ht⟩ := exec_exists_next i s.advance
        exact ⟨t.endCycle, by rw [step_of_decode_ok h hf hd, ht, endOfCycle_next]⟩

/-- Settles O12: every way through the cycle ends in a next state, the execute stage by `exec_exists_next`. -/
theorem everyStepAnswersNext : Obligations.EveryStepAnswersNext := step_exists_next

end Sys2Proof.Machine
end

section
/-! SUPPORT for O14 to O17 and O43 to O48. What the execute stage and the step can do, said once: an instruction that
`stopCause` stops leaves the taken fault, any other leaves the state `completed` names. The later proofs read a field of
`completed` and do not unfold a meaning again. -/

namespace Sys2Proof.Machine

open Sys2Proof.Rules

/-! ## The effect of an instruction that completes -/

/-- The state an instruction leaves where no fault stops it (R140 to R147, R171 to R182, R200 to R205, R230, R231, R250 to
R255), from the state after its fetch. `exec_of_completes` ties it to `exec`. -/
def completed (s : State) : Instr → State
  | .cls => s.setFb Framebuffer.blank
  | .ret => (s.setStack s.stack.dropLast).setPc (s.stack.getLastD 0)
  | .jp nnn => s.setPc (addrOf nnn)
  | .call nnn => (s.push s.pc).setPc (addrOf nnn)
  | .jpV0 nnn => s.setPc (offsetTarget s nnn)
  | .ldImm x nn => s.setV x nn
  | .addImm x nn => s.setV x (s.getV x + nn)
  | .ldReg x y => s.setV x (s.getV y)
  | .or x y => s.setV x (s.getV x ||| s.getV y)
  | .and x y => s.setV x (s.getV x &&& s.getV y)
  | .xor x y => s.setV x (s.getV x ^^^ s.getV y)
  | .addReg x y => s.setVThenFlag x (s.getV x + s.getV y) (carryFlag (s.getV x) (s.getV y))
  | .sub x y => s.setVThenFlag x (s.getV x - s.getV y) (noBorrowFlag (s.getV x) (s.getV y))
  | .subn x y => s.setVThenFlag x (s.getV y - s.getV x) (noBorrowFlag (s.getV y) (s.getV x))
  | .shr x _ => s.setVThenFlag x (s.getV x >>> 1) (shiftRightFlag (s.getV x))
  | .shl x _ => s.setVThenFlag x (s.getV x <<< 1) (shiftLeftFlag (s.getV x))
  | .ldI nnn => s.setI (addrOf nnn)
  | .rnd x nn => (s.setV x (Config.rnd s.rndCount &&& nn)).useRnd
  | .drw x y n => drawn x y s (s.mem.readBytes s.i.toNat n.toNat)
  | .ldVxDt x => s.setV x s.dt
  | .ldDtVx x => s.setDT (s.getV x)
  | .ldStVx x => s.setST (s.getV x)
  | .addI x => s.setI (indexSum s x)
  | .ldF x => s.setI (glyphAddress (s.getV x))
  | .ldB x => s.setMem (s.mem.writeBytes s.i.toNat (bcdDigits (s.getV x)))
  | .ldMemFromRegs x => s.setMem (s.mem.writeBytes s.i.toNat (regPrefix s x))
  | .ldRegsFromMem x => s.setRegs (putRegs s.v 0 (s.mem.readBytes s.i.toNat (x.val + 1)))
  | .ldVxK x =>
    (s.setRegs ((firstKeyDown s).elim s.v fun k => s.v.set x (BitVec.ofNat 8 k.val))).setPc
      ((firstKeyDown s).elim (s.pc - 2) fun _ => s.pc)
  | i => s.setPc (if skipHolds s i = some true then s.pc + 2 else s.pc)

/-! ## The checks of a range and of a key, in the numbers of `stopCause` -/

theorem rangeFault_write_eq_writeCause (a k : Nat) (hk : k < 16) :
    rangeFault writeFault a (k + 1) = writeCause a k := by
  cases h : rangeFault writeFault a (k + 1) with
  | none =>
    have := (rangeFault_write_eq_none a (k + 1) (by omega)).mp h
    rw [writeCause, if_neg (by omega), if_neg (by omega)]
  | some c =>
    obtain ⟨rfl, hlast⟩ | ⟨rfl, hlast, hfont⟩ := rangeFault_write_eq_some (by omega) h
    · rw [writeCause, if_pos (by omega)]
    · rw [writeCause, if_neg (by omega), if_pos (by omega)]

/-- A run of at most 16 bytes that may be written lies in memory and off the font (R65, R281). -/
theorem writeCause_eq_none {a k : Nat} (hk : k < 16) :
    writeCause a k = none ↔ a + (k + 1) ≤ 0x1000 ∧ (a + (k + 1) ≤ 0x50 ∨ 0xA0 ≤ a) := by
  rw [← rangeFault_write_eq_writeCause a k hk, rangeFault_write_eq_none a (k + 1) (by omega)]

theorem keyLevel_eq_getElem? (s : State) (k : Byte) : keyLevel s k = s.key[k.toNat]? := by
  unfold keyLevel
  split
  · next h => simp [h, Vector.get_eq_getElem]
  · next h => simp [h]

theorem mem_keyScan (k : Reg) : k ∈ Config.keyScan ↔ k ≠ 0xF := by
  revert k; decide

/-- Block-on-key finds no key exactly when none of those it scans is down (R255). -/
theorem firstKeyDown_eq_none (s : State) : firstKeyDown s = none ↔ ¬ someScannedKey s := by
  simp only [firstKeyDown, List.find?_eq_none, mem_keyScan, someScannedKey, not_exists, not_and]

/-! ## The execute stage as one equation -/

/-- What the execute stage leaves: the taken fault of the table of R271, or the completed instruction. -/
def afterExec (s : State) (i : Instr) : State := (stopCause s i).elim (completed s i) (faulted · i s)

theorem afterExec_of_stop {s : State} {i : Instr} {c : Fault} (h : stopCause s i = some c) :
    afterExec s i = faulted c i s := by
  rw [afterExec, h]; rfl

theorem afterExec_of_completes {s : State} {i : Instr} (h : stopCause s i = none) : afterExec s i = completed s i := by
  rw [afterExec, h]; rfl

/-- A store of at most 16 bytes faults by the table's cause of a write (R72, R281). -/
theorem storeAtI_eq (i : Instr) (bs : List Byte) (s : State) {k : Nat} (hk : k < 16) (hbs : bs.length = k + 1) :
    storeAtI i bs s = .next ((writeCause s.i.toNat k).elim (s.setMem (s.mem.writeBytes s.i.toNat bs))
      (faulted · i s)) := by
  rw [← rangeFault_write_eq_writeCause _ k hk, ← hbs]
  obtain ⟨c, hc, h⟩ | ⟨hc, h⟩ := storeAtI_cases i bs s
  · rw [h, hc]; rfl
  · rw [h, hc]; rfl

theorem execRet_eq (s : State) : execRet s = .next (afterExec s .ret) := by
  unfold execRet
  split
  · next h =>
    rw [afterExec_of_stop (c := .stackUnderflow) (by simpa [stopCause] using h), raise_eq]
  · next a h =>
    have hne : s.stack ≠ [] := fun hc => by simp [hc] at h
    rw [afterExec_of_completes (by simpa [stopCause] using hne), completed, List.getLastD_eq_getLast?, h]; rfl

theorem execCall_eq (nnn : Imm12) (s : State) : execCall nnn s = .next (afterExec s (.call nnn)) := by
  unfold execCall
  split
  · next h => rw [afterExec_of_stop (c := .stackOverflow) (by simpa [stopCause] using h), raise_eq]
  · next h => rw [afterExec_of_completes (by simpa [stopCause] using h)]; rfl

/-- A skip that no fault stops moves pc by 2 more exactly when its condition holds (R148). -/
theorem skipIf_eq_afterExec {s : State} {i : Instr} {b : Bool} (hb : skipHolds s i = some b) (hs : stopCause s i = none)
    (hc : completed s i = s.setPc (if skipHolds s i = some true then s.pc + 2 else s.pc)) :
    (.next (s.skipIf b) : Result) = .next (afterExec s i) := by
  rw [afterExec_of_completes hs, hc, hb]
  cases b <;> rfl

theorem execSkp_eq (x : Reg) (s : State) : execSkp x s = .next (afterExec s (.skp x)) := by
  unfold execSkp
  split
  · next h =>
    have hs : stopCause s (.skp x) = some .keypadIndexOutOfRange := if_pos ((keyLevel_eq_none s _).mp h)
    rw [afterExec_of_stop hs, raise_eq]
  · next down h =>
    have hk : ¬ 0xF < (s.getV x).toNat := fun hc => by simp [(keyLevel_eq_none s _).mpr hc] at h
    rw [keyLevel_eq_getElem?] at h
    exact skipIf_eq_afterExec h (if_neg hk) rfl

theorem execSknp_eq (x : Reg) (s : State) : execSknp x s = .next (afterExec s (.sknp x)) := by
  unfold execSknp
  split
  · next h =>
    have hs : stopCause s (.sknp x) = some .keypadIndexOutOfRange := if_pos ((keyLevel_eq_none s _).mp h)
    rw [afterExec_of_stop hs, raise_eq]
  · next down h =>
    have hk : ¬ 0xF < (s.getV x).toNat := fun hc => by simp [(keyLevel_eq_none s _).mpr hc] at h
    rw [keyLevel_eq_getElem?] at h
    exact skipIf_eq_afterExec (by simp [skipHolds, h]) (if_neg hk) rfl

theorem decide_toNat_eq (a b : Byte) : decide (a.toNat = b.toNat) = (a == b) := by
  simp [BitVec.toNat_inj, beq_eq_decide]

theorem decide_toNat_ne (a b : Byte) : decide (a.toNat ≠ b.toNat) = (a != b) := by
  simp [BitVec.toNat_inj, bne, beq_eq_decide]

theorem execDrw_eq (x y : Reg) (n : Nibble) (s : State) : execDrw x y n s = .next (afterExec s (.drw x y n)) := by
  obtain ⟨hn, hi, h⟩ | ⟨hi, h⟩ := loadAtI_cases (.drw x y n) n.toNat s (drawn x y s)
  · have hs : stopCause s (.drw x y n) = some .memoryOutOfRange := if_pos (by omega)
    rw [afterExec_of_stop hs]; exact h
  · have hs : stopCause s (.drw x y n) = none := if_neg (by omega)
    rw [afterExec_of_completes hs]; exact h

theorem execLdRegsFromMem_eq (x : Reg) (s : State) :
    execLdRegsFromMem x s = .next (afterExec s (.ldRegsFromMem x)) := by
  obtain ⟨-, hi, h⟩ | ⟨hi, h⟩ :=
    loadAtI_cases (.ldRegsFromMem x) (x.val + 1) s fun bs => s.setRegs (putRegs s.v 0 bs)
  · have hs : stopCause s (.ldRegsFromMem x) = some .memoryOutOfRange := if_pos (by omega)
    rw [afterExec_of_stop hs]; exact h
  · have hs : stopCause s (.ldRegsFromMem x) = none := if_neg (by omega)
    rw [afterExec_of_completes hs]; exact h

theorem execLdVxK_eq (x : Reg) (s : State) : execLdVxK x s = .next (afterExec s (.ldVxK x)) := by
  rw [afterExec_of_completes rfl, completed, execLdVxK]
  cases firstKeyDown s <;> rfl

/-- The execute stage, said once for every instruction: it faults as the table of R271 says and otherwise completes. -/
theorem exec_eq (i : Instr) (s : State) : exec i s = .next (afterExec s i) := by
  cases i with
  | ret => exact execRet_eq s
  | call nnn => exact execCall_eq nnn s
  | skp x => exact execSkp_eq x s
  | sknp x => exact execSknp_eq x s
  | drw x y n => exact execDrw_eq x y n s
  | ldB x => exact storeAtI_eq _ _ s (by decide) (length_bcdDigits _)
  | ldMemFromRegs x => exact storeAtI_eq _ _ s x.isLt (length_regPrefix s x)
  | ldRegsFromMem x => exact execLdRegsFromMem_eq x s
  | ldVxK x => exact execLdVxK_eq x s
  | seImm x nn => exact skipIf_eq_afterExec (congrArg some (decide_toNat_eq ..)) rfl rfl
  | sneImm x nn => exact skipIf_eq_afterExec (congrArg some (decide_toNat_ne ..)) rfl rfl
  | seReg x y => exact skipIf_eq_afterExec (congrArg some (decide_toNat_eq ..)) rfl rfl
  | sneReg x y => exact skipIf_eq_afterExec (congrArg some (decide_toNat_ne ..)) rfl rfl
  | _ => rfl

end Sys2Proof.Machine
end

section
/-! PROOF of O46 and O47. The fields of a completed instruction: each is as before but for the instructions that write
it (R22, R28, R30, R31, R33, R37, R39). A fault writes none of them. -/

namespace Sys2Proof.Machine

open Sys2Proof.Rules

section
variable (s : State) (i : Instr)

/-! ## What no completed instruction writes -/

@[simp] theorem completed_key : (completed s i).key = s.key := by cases i <;> rfl
@[simp] theorem completed_halted : (completed s i).halted = s.halted := by cases i <;> rfl
@[simp] theorem completed_fault : (completed s i).fault = s.fault := by cases i <;> rfl

end

/-! ## The fields with their writers -/

section
variable {s : State} {i : Instr}

theorem completed_i_of_ne (h : ∀ x n, i ≠ .ldI n ∧ i ≠ .addI x ∧ i ≠ .ldF x) : (completed s i).i = s.i := by
  cases i with
  | ldI n => exact absurd rfl (h 0 n).1
  | addI x => exact absurd rfl (h x 0).2.1
  | ldF x => exact absurd rfl (h x 0).2.2
  | _ => rfl

theorem completed_stack_of_ne (h : ∀ n, i ≠ .call n ∧ i ≠ .ret) : (completed s i).stack = s.stack := by
  cases i with
  | call n => exact absurd rfl (h n).1
  | ret => exact absurd rfl (h 0).2
  | _ => rfl

theorem completed_dt_of_ne (h : ∀ x, i ≠ .ldDtVx x) : (completed s i).dt = s.dt := by
  cases i with
  | ldDtVx x => exact absurd rfl (h x)
  | _ => rfl

theorem completed_st_of_ne (h : ∀ x, i ≠ .ldStVx x) : (completed s i).st = s.st := by
  cases i with
  | ldStVx x => exact absurd rfl (h x)
  | _ => rfl

theorem completed_fb_of_ne (h : ∀ x y n, i ≠ .cls ∧ i ≠ .drw x y n) : (completed s i).fb = s.fb := by
  cases i with
  | cls => exact absurd rfl (h 0 0 0).1
  | drw x y n => exact absurd rfl (h x y n).2
  | _ => rfl

theorem completed_rndCount_of_ne (h : ∀ x n, i ≠ .rnd x n) : (completed s i).rndCount = s.rndCount := by
  cases i with
  | rnd x n => exact absurd rfl (h x n)
  | _ => rfl

/-- No register changes but those the table of R22 names. -/
theorem completed_getV_of_notMem {z : Reg} (hz : z ∉ writtenRegs i) : (completed s i).getV z = s.getV z := by
  cases i with
  | ldImm x _ | addImm x _ | ldReg x _ | or x _ | and x _ | xor x _ | rnd x _ | ldVxDt x =>
    exact s.getV_setV_ne _ (List.ne_of_not_mem_cons hz)
  | addReg x _ | sub x _ | subn x _ | shr x _ | shl x _ =>
    exact s.getV_setVThenFlag_ne _ _ (List.ne_of_not_mem_cons hz)
      (List.ne_of_not_mem_cons (List.not_mem_of_not_mem_cons hz))
  | drw x y n => exact State.getV_setV_ne _ _ (List.ne_of_not_mem_cons hz)
  | ldVxK x =>
    rw [completed, State.getV_setPc]
    cases firstKeyDown s with
    | none => rfl
    | some k => exact s.getV_setV_ne _ (List.ne_of_not_mem_cons hz)
  | ldRegsFromMem x =>
    have hx : x.val < z.val := by simpa [writtenRegs] using hz
    exact (get_putRegs _ _ _ _).trans (dif_neg (by rw [Memory.length_readBytes]; omega))
  | _ => rfl

end

/-! ## The execute stage, faults included -/

/-- What neither a fault nor the completed instruction changes, the execute stage leaves as it was. -/
theorem exec_keeps {α : Type} {f : State → α} {s t : State} {i : Instr} (h : exec i s = .next t)
    (hfault : ∀ c, f (faulted c i s) = f s) (hdone : f (completed s i) = f s) : f t = f s := by
  rw [exec_eq, Host.Outcome.next.injEq] at h
  subst h
  cases hs : stopCause s i with
  | some c => rw [afterExec_of_stop hs, hfault]
  | none => rw [afterExec_of_completes hs, hdone]

/-- Settles O46: the registers written are those of `completed_getV_of_notMem`; a fault writes none. -/
theorem onlyNamedRegistersChange : Obligations.OnlyNamedRegistersChange := fun _ _ _ h z hz =>
  exec_keeps (f := fun u => u.getV z) h (fun _ => rfl) (completed_getV_of_notMem hz)

/-- Settles O47, field by field. -/
theorem eachFieldHasItsWriters : Obligations.EachFieldHasItsWriters := by
  intro s t i h
  refine ⟨fun hi => ?_, fun hi => ?_, fun hi => ?_, fun hi => ?_, fun hi x y => ?_, fun hi => ?_, ?_⟩
  · exact exec_keeps (f := State.i) h (fun _ => rfl) (completed_i_of_ne hi)
  · exact exec_keeps (f := State.stack) h (fun _ => rfl) (completed_stack_of_ne hi)
  · exact exec_keeps (f := State.dt) h (fun _ => rfl) (completed_dt_of_ne hi)
  · exact exec_keeps (f := State.st) h (fun _ => rfl) (completed_st_of_ne hi)
  · exact congrArg (·.cell x y) (exec_keeps (f := State.fb) h (fun _ => rfl) (completed_fb_of_ne hi))
  · exact exec_keeps (f := State.rndCount) h (fun _ => rfl) (completed_rndCount_of_ne hi)
  · exact exec_keeps (f := State.key) h (fun _ => rfl) (completed_key s i)

end Sys2Proof.Machine
end

section
/-! SUPPORT for O14, O15, O43, O44 and O48. The step as one equation at an instruction, and its inversion. -/

namespace Sys2Proof.Machine

open Sys2Proof.Rules

/-- The causes of R271 do not depend on pc. -/
@[simp] theorem stopCause_advance (s : State) (i : Instr) : stopCause s.advance i = stopCause s i := by
  cases i <;> rfl

theorem fetch_of_atInstr {s : State} {i : Instr} (h : AtInstr s i) : s.fetch = .ok (wordAtPc s) :=
  s.fetch_ok (by have := h.2.1; omega)

theorem atInstr_of_decode {s : State} {w : Word} {i : Instr} (h : s.running) (hf : s.fetch = .ok w)
    (hd : decode w = .ok i) : AtInstr s i := by
  obtain ⟨hpc, rfl⟩ := State.fetch_cases hf
  exact ⟨h, by omega, hd⟩

theorem step_of_atInstr {s : State} {i : Instr} (h : AtInstr s i) :
    step s = .next (afterExec s.advance i).endCycle := by
  rw [step_of_decode_ok h.1 (fetch_of_atInstr h) h.2.2, exec_eq, endOfCycle_next]

/-- A cycle that the table of R271 stops takes the fault at the state it began with (R276, R277). -/
theorem step_of_stop {s : State} {i : Instr} {c : Fault} (h : AtInstr s i) (hs : stopCause s i = some c) :
    step s = .next (s.takeFault c (some (encode i))) := by
  rw [step_of_atInstr h, afterExec_of_stop ((stopCause_advance s i).trans hs), State.endCycle_halted rfl,
    faulted_advance]

/-- Any other cycle completes its instruction and ticks the timers (R126). -/
theorem step_of_completes {s : State} {i : Instr} (h : AtInstr s i) (hs : stopCause s i = none) :
    step s = .next (completed s.advance i).tick := by
  rw [step_of_atInstr h, afterExec_of_completes ((stopCause_advance s i).trans hs), State.endCycle_running]
  simpa using h.1

theorem next_inj {t u : State} (h : (.next t : Result) = .next u) : u = t := by
  cases h; rfl

/-- What a step can do: nothing, on a halted core; take a fault, from the state it began with; or complete an
instruction and tick. -/
theorem step_cases {s t : State} (h : step s = .next t) :
    (s.halted = true ∧ t = s) ∨ (s.running ∧ ∃ c w, t = s.takeFault c w) ∨
      ∃ i, AtInstr s i ∧ stopCause s i = none ∧ t = (completed s.advance i).tick := by
  cases hh : s.halted with
  | true => exact .inl ⟨rfl, next_inj ((step_of_halted hh).symm.trans h)⟩
  | false =>
    cases hf : s.fetch with
    | error c => exact .inr (.inl ⟨hh, c, none, next_inj ((step_of_fetch_error hh hf).symm.trans h)⟩)
    | ok w =>
      cases hd : decode w with
      | error r => exact .inr (.inl ⟨hh, _, _, next_inj ((step_of_decode_error hh hf hd).symm.trans h)⟩)
      | ok i =>
        have hi : AtInstr s i := atInstr_of_decode hh hf hd
        cases hs : stopCause s i with
        | some c => exact .inr (.inl ⟨hh, c, _, next_inj ((step_of_stop hi hs).symm.trans h)⟩)
        | none => exact .inr (.inr ⟨i, hi, hs, next_inj ((step_of_completes hi hs).symm.trans h)⟩)

/-- A cycle that ends running has completed its instruction. -/
theorem completes_of_running {s t : State} {i : Instr} (hi : AtInstr s i) (h : step s = .next t) (ht : t.running) :
    stopCause s i = none ∧ t = (completed s.advance i).tick := by
  cases hs : stopCause s i with
  | some c =>
    obtain rfl := next_inj ((step_of_stop hi hs).symm.trans h)
    cases ht
  | none => exact ⟨rfl, next_inj ((step_of_completes hi hs).symm.trans h)⟩

end Sys2Proof.Machine
end

section
/-! PROOF of O14. pc after a completed instruction, by the table of R26, and its bound of R27. -/

namespace Sys2Proof.Machine

open Sys2Proof.Rules

/-- The instructions R26 gives a pc of their own. -/
def setsPc : Instr → Bool
  | .jp _ | .call _ | .jpV0 _ | .ret | .ldVxK _ => true
  | _ => false

/-- An instruction without a pc of its own leaves pc 2 on, and a skip whose condition holds 4 on (R26, R148). -/
theorem completed_pc_of_not_setsPc {s : State} {i : Instr} (h : setsPc i = false) :
    (completed s i).pc = if skipHolds s i = some true then s.pc + 2 else s.pc := by
  cases i with
  | jp _ | call _ | jpV0 _ | ret | ldVxK _ => cases h
  | _ => rfl

/-- The table of R26 at an instruction without a pc of its own. -/
theorem pcAfter_iff_of_not_setsPc {s : State} {p : Nat} {i : Instr} (h : setsPc i = false) :
    PcAfter s p i ↔ p = s.pc.toNat + (if skipHolds s i = some true then 4 else 2) := by
  cases i with
  | jp _ | call _ | jpV0 _ | ret | ldVxK _ => cases h
  | _ => exact Iff.rfl

@[simp] theorem skipHolds_advance (s : State) (i : Instr) : skipHolds s.advance i = skipHolds s i := by
  cases i <;> rfl

theorem pcAfter_of_not_setsPc {s : State} {i : Instr} (hpc : s.pc.toNat ≤ 0xFFE) (h : setsPc i = false) :
    PcAfter s (completed s.advance i).pc.toNat i := by
  rw [pcAfter_iff_of_not_setsPc h, completed_pc_of_not_setsPc h, skipHolds_advance, State.advance_pc]
  split <;> bv_omega

theorem pcAfter_ret {s : State} (h : stopCause s .ret = none) : PcAfter s (completed s.advance .ret).pc.toNat .ret := by
  have hne : s.stack ≠ [] := fun hc => by simp [stopCause, hc] at h
  refine ⟨s.stack.getLast hne, List.getLast?_eq_some_getLast hne, ?_⟩
  simp [completed, List.getLastD_eq_getLast?, List.getLast?_eq_some_getLast hne]

theorem pcAfter_ldVxK {s : State} (hpc : s.pc.toNat ≤ 0xFFE) (x : Reg) :
    PcAfter s (completed s.advance (.ldVxK x)).pc.toNat (.ldVxK x) := by
  rw [completed, State.setPc_pc]
  cases hf : firstKeyDown s.advance with
  | none =>
    refine ⟨fun hk => absurd hk ((firstKeyDown_eq_none s.advance).mp hf), fun _ => ?_⟩
    simp
  | some k =>
    refine ⟨fun _ => ?_, fun hk => ?_⟩
    · rw [Option.elim_some, State.advance_pc]; bv_omega
    · rw [(firstKeyDown_eq_none s.advance).mpr hk] at hf; cases hf

/-- A completed instruction leaves pc as the table of R26 says. -/
theorem pcAfter_completed {s : State} {i : Instr} (hpc : s.pc.toNat ≤ 0xFFE) (hs : stopCause s i = none) :
    PcAfter s (completed s.advance i).pc.toNat i := by
  cases i with
  | jp nnn => exact toNat_addrOf nnn
  | call nnn => exact toNat_addrOf nnn
  | jpV0 nnn => exact toNat_offsetTarget s nnn
  | ret => exact pcAfter_ret hs
  | ldVxK x => exact pcAfter_ldVxK hpc x
  | _ => exact pcAfter_of_not_setsPc hpc rfl

/-- Settles O14: a cycle that ends running has completed its instruction, and the tick leaves pc alone. -/
theorem pcAfterEveryInstruction : Obligations.PcAfterEveryInstruction := by
  intro s t i hi h ht
  obtain ⟨hs, rfl⟩ := completes_of_running hi h ht
  exact pcAfter_completed hi.2.1 hs

/-- No pc of R26's table is above jump-offset's largest target 0x10FE (R27). -/
theorem pcAfter_le {s : State} {p : Nat} {i : Instr} (hpc : s.pc.toNat ≤ 0xFFE)
    (hstack : ∀ a ∈ s.stack, a.toNat ≤ 0x1000) (h : PcAfter s p i) : p ≤ 0x10FE := by
  cases i with
  | jp nnn | call nnn =>
    have hp : p = nnn.toNat := h
    omega
  | jpV0 nnn =>
    have hp : p = nnn.toNat + (s.getV 0).toNat := h
    omega
  | ret =>
    obtain ⟨a, ha, rfl⟩ := h
    have := hstack a (List.mem_of_getLast? ha)
    omega
  | ldVxK x =>
    by_cases hk : someScannedKey s
    · have := h.1 hk
      omega
    · have := h.2 hk
      omega
  | _ =>
    rw [pcAfter_iff_of_not_setsPc rfl] at h
    split at h <;> omega

end Sys2Proof.Machine
end

section
/-! PROOF of O15, O16, O17 and O48. A step writes memory by one checked run at I, if at all; so the canonical form and
the font are kept (R36, R43, R61). The stack and the fault record follow the cycle's three ends (R32, R277). -/

namespace Sys2Proof.Machine

open Sys2Proof.Rules

/-! ## Memory and the font -/

/-- The bytes an instruction writes from address I on (R203, R204). -/
def storedBytes (s : State) : Instr → List Byte
  | .ldB x => bcdDigits (s.getV x)
  | .ldMemFromRegs x => regPrefix s x
  | _ => []

theorem completed_mem (s : State) (i : Instr) :
    (completed s i).mem = s.mem.writeBytes s.i.toNat (storedBytes s i) := by
  cases i <;> rfl

/-- What a completed instruction stores lies in memory and off the font (R36, R65). -/
theorem storedBytes_range {s : State} {i : Instr} (hs : stopCause s i = none) :
    storedBytes s i = [] ∨ s.i.toNat + (storedBytes s i).length ≤ 0x1000 ∧
      (s.i.toNat + (storedBytes s i).length ≤ 0x50 ∨ 0xA0 ≤ s.i.toNat) := by
  cases i with
  | ldB x => exact .inr ((writeCause_eq_none (k := 2) (by decide)).mp hs)
  | ldMemFromRegs x =>
    rw [storedBytes, length_regPrefix]
    exact .inr ((writeCause_eq_none x.isLt).mp hs)
  | _ => exact .inl rfl

theorem completed_mem_wf {s : State} {i : Instr} (hs : stopCause s i = none) (h : s.mem.wf) :
    (completed s i).mem.wf := by
  rw [completed_mem]
  obtain hnil | ⟨hlen, -⟩ := storedBytes_range hs
  · rwa [hnil]
  · exact Memory.wf_writeBytes _ _ h _ hlen

theorem completed_readByte_font {s : State} {i : Instr} (hs : stopCause s i = none) {a : Nat} (ha : inFont a = true) :
    (completed s i).readByte a = s.readByte a := by
  rw [State.readByte, completed_mem]
  obtain hnil | ⟨-, hfont⟩ := storedBytes_range hs
  · rw [hnil]; rfl
  · rw [inFont_iff] at ha
    exact Memory.read_writeBytes_outside _ _ _ _ (by omega)

theorem step_readByte_font {s t : State} (h : step s = .next t) {a : Nat} (ha : inFont a = true) :
    t.readByte a = s.readByte a := by
  obtain ⟨-, rfl⟩ | ⟨-, c, w, rfl⟩ | ⟨i, -, hs, rfl⟩ := step_cases h
  · rfl
  · rfl
  · exact completed_readByte_font ((stopCause_advance s i).trans hs) ha

/-- Settles O48: the one checked run of writes misses the font, and the other ends of a cycle write nothing. -/
theorem fontNeverMutated : Obligations.FontNeverMutated := fun _ _ a h hlo hhi =>
  step_readByte_font h ((inFont_iff a).mpr ⟨hlo, hhi⟩)

/-! ## The stack -/

theorem completed_stack_cases (s : State) (i : Instr) :
    (completed s i).stack = s.stack ∨ (completed s i).stack = s.stack.dropLast ∨
      (∃ nnn, i = .call nnn) ∧ (completed s i).stack = s.stack ++ [s.pc] := by
  cases i with
  | ret => exact .inr (.inl rfl)
  | call nnn => exact .inr (.inr ⟨⟨nnn, rfl⟩, rfl⟩)
  | _ => exact .inl rfl

/-- The stack stays sound: a call that completes finds fewer than 16 entries, and what it pushes is the address after its
own word (R32, R142). -/
theorem completed_stackSound {s : State} {i : Instr} (hpc : s.pc.toNat ≤ 0xFFE) (hs : stopCause s i = none)
    (h : s.stackSound) : (completed s.advance i).stackSound := by
  obtain ⟨hlen, hentry⟩ := h
  unfold State.stackSound
  obtain hk | hk | ⟨⟨nnn, rfl⟩, hk⟩ := completed_stack_cases s.advance i
  · rw [hk]
    exact ⟨hlen, hentry⟩
  · rw [hk]
    rw [State.advance_stack, List.length_dropLast]
    exact ⟨(Nat.sub_le _ _).trans hlen, fun a ha => hentry a (List.mem_of_mem_dropLast ha)⟩
  · have hlt : s.stack.length < 16 := by simpa [stopCause] using hs
    rw [hk, State.advance_stack, State.advance_pc]
    refine ⟨by simp; omega, fun a ha => ?_⟩
    obtain ha | ha := List.mem_append.mp ha
    · exact hentry a ha
    · rw [List.mem_singleton.mp ha]; bv_omega

/-! ## The invariant through a cycle -/

theorem State.Inv.takeFault {s : State} (h : s.Inv) (c : Fault) (w : Option Word) : (s.takeFault c w).Inv where
  memory := h.memory
  font := h.font
  stack := h.stack
  pc := h.pc
  fault := ⟨by simp, fun r hr => by obtain rfl := Option.some.inj hr; rfl⟩

/-- A running core has no record, and a completed instruction makes none (R277). -/
theorem completed_faultSound {s : State} (i : Instr) (hrun : s.running) (h : s.faultSound) :
    (completed s.advance i).faultSound := by
  have hnone : s.fault = none := by_contra fun hc => by simpa [hrun] using h.1.mpr hc
  simp [State.faultSound, hnone, hrun]

theorem State.Inv.completed {s : State} {i : Instr} (h : s.Inv) (hi : AtInstr s i) (hs : stopCause s i = none) :
    (completed s.advance i).tick.Inv := by
  obtain ⟨hrun, hpc, -⟩ := hi
  obtain ⟨-, hentry⟩ := h.stack
  have hs' : stopCause s.advance i = none := (stopCause_advance s i).trans hs
  exact {
    memory := completed_mem_wf hs' h.memory
    font := fun a ha => (completed_readByte_font hs' ha).trans (h.font a ha)
    stack := completed_stackSound hpc hs h.stack
    pc := pcAfter_le hpc (fun a ha => (hentry a ha).2) (pcAfter_completed hpc hs)
    fault := completed_faultSound i hrun h.fault }

theorem State.Inv.step {s t : State} (h : s.Inv) (hstep : step s = .next t) : t.Inv := by
  obtain ⟨-, rfl⟩ | ⟨-, c, w, rfl⟩ | ⟨i, hi, hs, rfl⟩ := step_cases hstep
  · exact h
  · exact h.takeFault c w
  · exact h.completed hi hs

/-- Settles O15, by the three ends of a cycle that `step_cases` names. -/
theorem stepKeepsMachineInv : Obligations.StepKeepsMachineInv := fun _ _ h hstep => h.step hstep

/-! ## The invariant through the host's events -/

/-- Construction meets the invariant whatever the keys and the count of free bytes are (R300). -/
theorem inv_construct (s : State) : s.construct.Inv where
  memory := Memory.wf_nil
  font := fun _ _ => rfl
  stack := by simp [State.stackSound]
  pc := by simp
  fault := by simp [State.faultSound]

/-- Settles O16: the reset state is what construction makes of itself. -/
theorem resetMeetsMachineInv : Obligations.ResetMeetsMachineInv := inv_construct State.reset

/-- An admitted image lies from 0x200 up to 0xFFF at most, above the font (R73, R74). -/
theorem State.Inv.loadProgram {s t : State} {image : List Byte} (h : s.Inv) (hload : s.loadProgram image = .next t) :
    t.Inv := by
  by_cases hlen : image.length ≤ Config.maxImage
  · rw [State.loadProgram, if_pos hlen] at hload
    obtain rfl := next_inj hload
    have hend : Config.progBase + image.length ≤ Config.memSize := Nat.add_le_add_left hlen Config.progBase
    have hfont : (s.setMem (s.mem.writeBytes Config.progBase image)).fontIntact := fun a ha => by
      have hbelow : a < Config.progBase := lt_of_le_of_lt ((inFont_iff a).mp ha).2 (by decide)
      exact (Memory.read_writeBytes_outside _ _ _ _ (.inl hbelow)).trans (h.font a ha)
    exact ⟨Memory.wf_writeBytes _ _ h.memory _ hend, hfont, h.stack, h.pc, h.fault⟩
  · rw [State.loadProgram, if_neg hlen] at hload
    cases hload

theorem State.Inv.hostStep {s t : State} {e : HostEvent} (h : s.Inv) (he : hostStep s e = .next t) : t.Inv := by
  cases e with
  | cycle => exact h.step he
  | keypad k down =>
    obtain rfl := next_inj he
    exact ⟨h.memory, h.font, h.stack, h.pc, h.fault⟩
  | launch image => exact (inv_construct s).loadProgram he

/-- A run that is admitted admits its first event, and goes on from the state that event leaves. -/
theorem hostRun_cons {s t : State} {e : HostEvent} {es : List HostEvent} (h : hostRun s (e :: es) = .next t) :
    ∃ u, hostStep s e = .next u ∧ hostRun u es = .next t := by
  rw [hostRun] at h
  split at h
  · next u hu => exact ⟨u, hu, h⟩
  · cases h
  · cases h

/-- Settles O17, by induction on the events. -/
theorem hostRunKeepsMachineInv : Obligations.HostRunKeepsMachineInv := by
  intro es
  induction es with
  | nil =>
    intro s t h hrun
    obtain rfl := next_inj hrun
    exact h
  | cons e es ih =>
    intro s t h hrun
    obtain ⟨u, hu, hrest⟩ := hostRun_cons hrun
    exact ih u t (h.hostStep hu) hrest

end Sys2Proof.Machine
end

section
/-! PROOF of O43 and O44. The keypad and ST are outside what an instruction reads: a completed instruction commutes with
a change of the field (R31, R39). -/

namespace Sys2Proof.Machine

open Sys2Proof.Rules

/-! ## The keypad -/

theorem step_key {s t : State} (h : step s = .next t) : t.key = s.key := by
  obtain ⟨-, rfl⟩ | ⟨-, c, w, rfl⟩ | ⟨i, -, -, rfl⟩ := step_cases h
  · rfl
  · rfl
  · exact completed_key s.advance i

/-- No cause of R271 depends on a key's level. -/
theorem stopCause_withKeys (s : State) (keys : Vector Bool 16) (i : Instr) :
    stopCause { s with key := keys } i = stopCause s i := by
  cases i <;> rfl

/-- An instruction other than the three that read the keypad completes in the same way under any keys. -/
theorem completed_withKeys {s : State} {i : Instr} (keys : Vector Bool 16)
    (hi : ∀ x, i ≠ .skp x ∧ i ≠ .sknp x ∧ i ≠ .ldVxK x) :
    completed { s with key := keys } i = { completed s i with key := keys } := by
  cases i with
  | skp x => exact absurd rfl (hi x).1
  | sknp x => exact absurd rfl (hi x).2.1
  | ldVxK x => exact absurd rfl (hi x).2.2
  | _ => rfl

theorem afterExec_withKeys {s : State} {i : Instr} (keys : Vector Bool 16)
    (hi : ∀ x, i ≠ .skp x ∧ i ≠ .sknp x ∧ i ≠ .ldVxK x) :
    afterExec { s with key := keys } i = { afterExec s i with key := keys } := by
  rw [afterExec, afterExec, stopCause_withKeys]
  cases stopCause s i with
  | some c => rfl
  | none => exact completed_withKeys keys hi

/-- Settles O43: no end of a cycle writes the keys, and the execute stage commutes with a change of them. -/
theorem onlyThreeInstructionsReadKeys : Obligations.OnlyThreeInstructionsReadKeys := by
  refine ⟨fun _ _ => step_key, fun s t i keys hi h => ?_⟩
  rw [exec_eq] at h
  rw [exec_eq, afterExec_withKeys keys hi, next_inj h]

/-! ## The sound timer -/

/-- A completed instruction is the same but for ST itself whatever ST held; set-sound-timer alone writes it anew. -/
theorem completed_setST (s : State) (b : Byte) (i : Instr) :
    ∃ c, completed (s.setST b) i = (completed s i).setST c := by
  cases i with
  | ldStVx x => exact ⟨s.getV x, rfl⟩
  | _ => exact ⟨b, rfl⟩

/-- No cause of R271 depends on ST. -/
theorem stopCause_setST (s : State) (b : Byte) (i : Instr) : stopCause (s.setST b) i = stopCause s i := by
  cases i <;> rfl

theorem step_setST_of_atInstr {s t : State} {i : Instr} (hi : AtInstr s i) (h : step s = .next t) (b : Byte) :
    ∃ c, step (s.setST b) = .next (t.setST c) := by
  have hi' : AtInstr (s.setST b) i := hi
  cases hs : stopCause s i with
  | some k =>
    obtain rfl := next_inj ((step_of_stop hi hs).symm.trans h)
    exact ⟨b, step_of_stop hi' ((stopCause_setST s b i).trans hs)⟩
  | none =>
    obtain rfl := next_inj ((step_of_completes hi hs).symm.trans h)
    obtain ⟨c, hc⟩ := completed_setST s.advance b i
    have hstep := step_of_completes hi' ((stopCause_setST s b i).trans hs)
    rw [show (s.setST b).advance = s.advance.setST b from rfl, hc] at hstep
    exact ⟨tickTimer c, hstep⟩

theorem step_setST {s t : State} (h : step s = .next t) (b : Byte) : ∃ c, step (s.setST b) = .next (t.setST c) := by
  cases hh : s.halted with
  | true =>
    obtain rfl := next_inj ((step_of_halted hh).symm.trans h)
    exact ⟨b, step_of_halted hh⟩
  | false =>
    cases hf : s.fetch with
    | error c =>
      obtain rfl := next_inj ((step_of_fetch_error hh hf).symm.trans h)
      exact ⟨b, step_of_fetch_error (s := s.setST b) hh hf⟩
    | ok w =>
      cases hd : decode w with
      | error r =>
        obtain rfl := next_inj ((step_of_decode_error hh hf hd).symm.trans h)
        exact ⟨b, step_of_decode_error (s := s.setST b) hh hf hd⟩
      | ok i => exact step_setST_of_atInstr (atInstr_of_decode hh hf hd) h b

/-- Settles O44, by `step_setST` on each way through the cycle. -/
theorem noInstructionReadsSoundTimer : Obligations.NoInstructionReadsSoundTimer := fun _ _ b h => step_setST h b

end Sys2Proof.Machine
end

section
/-! PROOF of O19, O29 and O40. -/

namespace Sys2Proof.Machine

open Sys2Proof.Rules

/-- Settles O19: outside the font an unlisted address reads as zero; the two glyphs are read from the listed font. -/
theorem resetStateAsListed : Obligations.ResetStateAsListed := by
  refine ⟨rfl, rfl, rfl, fun x => ?_, rfl, rfl, rfl, rfl, Framebuffer.cell_blank, fun k => ?_, fun a ha => ?_, ?_, ?_⟩
  · simp [State.getV, State.reset, Vector.get_eq_getElem]
  · simp [State.reset, Vector.get_eq_getElem]
  · have hf : inFont a ≠ true := by rw [ne_eq, inFont_iff]; omega
    exact (Memory.read_nil a).trans (if_neg hf)
  · decide
  · decide

/-- Settles O29: RND has one outcome, and a byte masked by NN has no bit outside it. -/
theorem randomIsTheFreeByteMasked : Obligations.RandomIsTheFreeByteMasked := by
  intro s x nn
  have hx : ((s.setV x (Config.rnd s.rndCount &&& nn)).useRnd).getV x = Config.rnd s.rndCount &&& nn := by simp
  refine ⟨_, rfl, hx, ?_, rfl, fun z hz => ?_, rfl, fun _ => rfl⟩
  · rw [hx, BitVec.and_assoc, BitVec.and_not_self]
    exact BitVec.and_zero
  · exact s.getV_setV_ne _ (List.ne_of_not_mem_cons hz)

/-- Settles O40: column and row are the remainder and the quotient of the linear index by 64. -/
theorem pixelOutputIsRowMajor : Obligations.PixelOutputIsRowMajor := by
  intro s x y k hk
  have hx : (⟨k.val % 64, Nat.mod_lt _ (by decide)⟩ : Fin 64) = x := Fin.ext (by simp only; omega)
  have hy : (⟨k.val / 64, by omega⟩ : Fin 32) = y := Fin.ext (by simp only; omega)
  rw [State.fbPixel, hx, hy]

end Sys2Proof.Machine
end

section
/-! PROOF of O20, O36 and O45. Memory is written by one run of bytes only: the image of a launch (R73, R301), or what an
instruction stores from I on (R69, R203, R204). Inside the run a byte reads as written, outside as before. -/

namespace Sys2Proof.Machine

open Sys2Proof.Rules

/-! ## The launch -/

theorem launch_of_fits (s : State) {image : List Byte} (h : image.length ≤ 3584) :
    s.launch image = .next (s.construct.setMem (s.construct.mem.writeBytes 0x200 image)) := if_pos h

theorem launch_of_tooLarge (s : State) {image : List Byte} (h : 3584 < image.length) :
    s.launch image = .refused .imageTooLarge := if_neg (by omega : ¬ image.length ≤ 3584)

/-- Settles O20: the image is one run of bytes written at 0x200 to a constructed core. -/
theorem launchPlacesImageAt200 : Obligations.LaunchPlacesImageAt200 := by
  refine fun s image => ⟨fun hfits => ⟨_, launch_of_fits s hfits, rfl, rfl, rfl, ?_, ?_, rfl⟩, launch_of_tooLarge s⟩
  · exact fun k hk => Memory.read_writeBytes image _ _ k hk
  · exact fun a ha => Memory.read_writeBytes_outside image _ _ a ha

/-! ## The bytes an instruction stores -/

/-- The range an instruction stores to is the one its bytes take up from I on; one with no range stores no byte. -/
theorem storedRange_cases (s : State) (i : Instr) :
    (storedRange s i = none ∧ storedBytes s i = []) ∨
      storedRange s i = some (s.i.toNat, (storedBytes s i).length) := by
  cases i with
  | ldB x => exact .inr rfl
  | ldMemFromRegs x => exact .inr (by rw [storedBytes, length_regPrefix]; rfl)
  | _ => exact .inl ⟨rfl, rfl⟩

/-- The execute stage, faults included, changes no byte outside the run it stores. -/
theorem exec_sameMemoryOutside {s t : State} {i : Instr} (h : exec i s = .next t) :
    SameMemoryOutside s.i.toNat (storedBytes s i).length s t := fun b hb =>
  exec_keeps (f := fun u => u.readByte b) h (fun _ => rfl) (by
    rw [State.readByte, completed_mem]
    exact Memory.read_writeBytes_outside _ _ _ _ hb)

/-- Settles O45: the bytes stored lie in the range stored to, and an empty run has every byte outside it. -/
theorem onlyStoredBytesChange : Obligations.OnlyStoredBytesChange := by
  intro s t i h
  have hout := exec_sameMemoryOutside h
  obtain ⟨hr, hnil⟩ | hr := storedRange_cases s i
  · rw [hnil] at hout
    exact ⟨fun _ b => hout b (lt_or_ge b s.i.toNat), fun a n ha => by simp [hr] at ha⟩
  · refine ⟨fun hnone => by simp [hr] at hnone, fun a n ha => ?_⟩
    obtain ⟨rfl, rfl⟩ := Prod.mk.inj (Option.some.inj (hr.symm.trans ha))
    exact hout

/-! ## The word register-dump stores -/

/-- An execute stage that leaves the core running has completed its instruction. -/
theorem exec_completes_of_running {s t : State} {i : Instr} (h : exec i s = .next t) (ht : t.running) :
    stopCause s i = none ∧ t = completed s i := by
  obtain rfl := next_inj ((exec_eq i s).symm.trans h)
  cases hs : stopCause s i with
  | some c =>
    rw [afterExec_of_stop hs] at ht
    cases ht
  | none => exact ⟨rfl, afterExec_of_completes hs⟩

/-- A completed register-dump leaves each register of its prefix at I plus its number (R204). -/
theorem readByte_completed_dump (s : State) {x z : Reg} (hz : z ≤ x) :
    (completed s (.ldMemFromRegs x)).readByte (s.i.toNat + z.val) = s.getV z := by
  have hlen : z.val < (regPrefix s x).length := by
    rw [length_regPrefix]
    exact Nat.lt_succ_of_le hz
  calc (s.mem.writeBytes s.i.toNat (regPrefix s x)).read (s.i.toNat + z.val)
    _ = (regPrefix s x)[z.val] := Memory.read_writeBytes _ _ _ _ hlen
    _ = s.getV z := getElem_regPrefix s x _ hlen

/-- Settles O36: the write check has the dumped run, and so the fetched word, in memory; its two bytes are registers of
the prefix. -/
theorem fetchSeesTheDumpedWord : Obligations.FetchSeesTheDumpedWord := by
  intro s t x z z' hz' hle hpc _ h ht
  obtain ⟨hs, rfl⟩ := exec_completes_of_running h ht
  have hend : s.i.toNat + (x.val + 1) ≤ 0x1000 := ((writeCause_eq_none x.isLt).mp hs).1
  have hval : z'.val ≤ x.val := hle
  have hz : z ≤ x := Fin.le_def.mpr (by omega)
  have hpc' : (completed s (.ldMemFromRegs x)).pc.toNat = s.i.toNat + z.val := hpc
  rw [State.fetch_ok _ (by omega), hpc', Nat.add_assoc, ← hz', readByte_completed_dump s hz,
    readByte_completed_dump s hle]

end Sys2Proof.Machine
end

section
/-! PROOF of O1 to O3. The decoder and the encoder are inverse: an encoded word has the class of its instruction (R95)
and, in classes 0, 8, E and F, its sub-selector (R96 to R99); a decoded word is the shape of R92 of its own fields. -/

namespace Sys2Proof

/-! ## The decoder in the classes with a decoder of their own -/

theorem decode_of_class8 {w : Word} (h : fieldC w = 0x8) : decode w = decode8 w := by simp [decode, h]
theorem decode_of_classE {w : Word} (h : fieldC w = 0xE) : decode w = decodeE w := by simp [decode, h]
theorem decode_of_classF {w : Word} (h : fieldC w = 0xF) : decode w = decodeF w := by simp [decode, h]

/-! ## Decoding an encoded instruction -/

/-- Classes 8, E and F go on to their own decoder, which finds the selector; the two words of class 0 are fixed, and
elsewhere the class decides. -/
theorem decode_encode (i : Instr) : decode (encode i) = .ok i := by
  cases i with
  | cls | ret => rfl
  | seReg x y | sneReg x y => simp [encode, decode, decodeCompare]
  | ldReg x y | or x y | and x y | xor x y | addReg x y | sub x y | subn x y | shr x y | shl x y =>
    exact (decode_of_class8 (fieldC_wordXYN ..)).trans (by simp [decode8])
  | skp x | sknp x => exact (decode_of_classE (fieldC_wordXNN ..)).trans (by simp [decodeE])
  | ldVxDt x | ldVxK x | ldDtVx x | ldStVx x | addI x | ldF x | ldB x | ldMemFromRegs x | ldRegsFromMem x =>
    exact (decode_of_classF (fieldC_wordXNN ..)).trans (by simp [decodeF])
  | _ => simp [encode, decode]

/-- Settles O2: the two bytes of the word pack to it again, and the bytes after them are not looked at. -/
theorem decodeOfEncodeIsIdentity : Obligations.DecodeOfEncodeIsIdentity := by
  intro i rest
  refine ⟨decode_encode i, ?_⟩
  show (decode (packWord (highByte (encode i)) (lowByte (encode i)))).map (fun j => (j, rest)) = .ok (i, rest)
  rw [packWord_bytes, decode_encode]
  rfl

/-- Settles O1: each word is the encoding of its instruction. -/
theorem specWordsDecodeAsWritten : Obligations.SpecWordsDecodeAsWritten :=
  ⟨decode_encode .cls, decode_encode .ret, decode_encode (.jp 0xABC), decode_encode (.seImm 3 0x42),
    decode_encode (.sneReg 1 2), decode_encode (.addImm 0xA 0xFF), decode_encode (.subn 1 2),
    decode_encode (.shr 1 0xF), decode_encode (.ldI 0x123), decode_encode (.drw 1 2 5), decode_encode (.sknp 1),
    decode_encode (.ldRegsFromMem 2)⟩

/-! ## Encoding a decoded instruction -/

section
variable {w : Word} {c : Nibble} (hc : fieldC w = c)
include hc

theorem wordNNN_of_class : wordNNN c (fieldNNN w) = w := hc ▸ wordNNN_fields w

theorem wordXNN_of_class : wordXNN c (fieldX w) (fieldNN w) = w := hc ▸ wordXNN_fields w

theorem wordXNN_of_selector {nn : Byte} (hnn : fieldNN w = nn) : wordXNN c (fieldX w) nn = w :=
  hnn ▸ wordXNN_of_class hc

theorem wordXYN_of_class : wordXYN c (fieldX w) (fieldY w) (fieldN w) = w := hc ▸ wordXYN_fields w

theorem wordXYN_of_selector {n : Nibble} (hn : fieldN w = n) : wordXYN c (fieldX w) (fieldY w) n = w :=
  hn ▸ wordXYN_of_class hc

end

section
variable {w : Word} {i : Instr}

theorem encode_of_decode0 (h : decode0 w = .ok i) : encode i = w := by
  iterate 2
    obtain ⟨hw, h⟩ | ⟨-, h⟩ := ite_ok_cases h
    · cases h; exact hw.symm
  cases h

theorem encode_of_decode8 (hc : fieldC w = 0x8) (h : decode8 w = .ok i) : encode i = w := by
  iterate 9
    obtain ⟨hs, h⟩ | ⟨-, h⟩ := ite_ok_cases h
    · cases h; exact wordXYN_of_selector hc hs
  cases h

theorem encode_of_decodeE (hc : fieldC w = 0xE) (h : decodeE w = .ok i) : encode i = w := by
  iterate 2
    obtain ⟨hs, h⟩ | ⟨-, h⟩ := ite_ok_cases h
    · cases h; exact wordXNN_of_selector hc hs
  cases h

theorem encode_of_decodeF (hc : fieldC w = 0xF) (h : decodeF w = .ok i) : encode i = w := by
  iterate 9
    obtain ⟨hs, h⟩ | ⟨-, h⟩ := ite_ok_cases h
    · cases h; exact wordXNN_of_selector hc hs
  cases h

theorem decodeCompare_cases {j : Instr} {r : DecodeReject} (h : decodeCompare w j r = .ok i) :
    fieldN w = 0x0 ∧ i = j := by
  obtain ⟨hn, hj⟩ | ⟨-, hr⟩ := ite_ok_cases h
  · exact ⟨hn, (Except.ok.inj hj).symm⟩
  · cases hr

/-- One test of the dispatch after another, each with the class it finds (R95). -/
theorem encode_of_decode (h : decode w = .ok i) : encode i = w := by
  obtain ⟨hc, h⟩ | ⟨h0, h⟩ := ite_ok_cases h
  · exact encode_of_decode0 h
  obtain ⟨hc, h⟩ | ⟨h1, h⟩ := ite_ok_cases h
  · cases h; exact wordNNN_of_class hc
  obtain ⟨hc, h⟩ | ⟨h2, h⟩ := ite_ok_cases h
  · cases h; exact wordNNN_of_class hc
  obtain ⟨hc, h⟩ | ⟨h3, h⟩ := ite_ok_cases h
  · cases h; exact wordXNN_of_class hc
  obtain ⟨hc, h⟩ | ⟨h4, h⟩ := ite_ok_cases h
  · cases h; exact wordXNN_of_class hc
  obtain ⟨hc, h⟩ | ⟨h5, h⟩ := ite_ok_cases h
  · obtain ⟨hn, rfl⟩ := decodeCompare_cases h; exact wordXYN_of_selector hc hn
  obtain ⟨hc, h⟩ | ⟨h6, h⟩ := ite_ok_cases h
  · cases h; exact wordXNN_of_class hc
  obtain ⟨hc, h⟩ | ⟨h7, h⟩ := ite_ok_cases h
  · cases h; exact wordXNN_of_class hc
  obtain ⟨hc, h⟩ | ⟨h8, h⟩ := ite_ok_cases h
  · exact encode_of_decode8 hc h
  obtain ⟨hc, h⟩ | ⟨h9, h⟩ := ite_ok_cases h
  · obtain ⟨hn, rfl⟩ := decodeCompare_cases h; exact wordXYN_of_selector hc hn
  obtain ⟨hc, h⟩ | ⟨hA, h⟩ := ite_ok_cases h
  · cases h; exact wordNNN_of_class hc
  obtain ⟨hc, h⟩ | ⟨hB, h⟩ := ite_ok_cases h
  · cases h; exact wordNNN_of_class hc
  obtain ⟨hc, h⟩ | ⟨hC, h⟩ := ite_ok_cases h
  · cases h; exact wordXNN_of_class hc
  obtain ⟨hc, h⟩ | ⟨hD, h⟩ := ite_ok_cases h
  · cases h; exact wordXYN_of_class hc
  obtain ⟨hc, h⟩ | ⟨hE, h⟩ := ite_ok_cases h
  · exact encode_of_decodeE hc h
  exact encode_of_decodeF (class_eq_F _ h0 h1 h2 h3 h4 h5 h6 h7 h8 h9 hA hB hC hD hE) h

end

/-- Settles O3: a word is the shape of its fields, and its class and sub-selector are those the decoder tested. -/
theorem encodeOfDecodedIsTheWord : Obligations.EncodeOfDecodedIsTheWord := fun _ _ => encode_of_decode

end Sys2Proof
end

section
/-! PROOF of O4, O5 and O8. A row of the opcode map asks for one word, for a class, or for a class and a sub-selector
(R95 to R100); so the words of the map are the encodings of the instructions. -/

namespace Sys2Proof

/-! ## No two rows share a word -/

/-- Two rows that match one word agree with it, and so with each other, on the bits both fix. -/
theorem overlaps_of_matchesWord {r q : OpRow} {w : Word} (hr : r.matchesWord w = true) (hq : q.matchesWord w = true) :
    r.overlaps q = true := by
  rw [OpRow.matchesWord, beq_iff_eq] at hr hq
  rw [OpRow.overlaps, beq_iff_eq, ← hr, ← hq]
  ext k
  simp only [BitVec.getElem_and, BitVec.getElem_xor, BitVec.ofNat_eq_ofNat, BitVec.getElem_zero]
  exact (by decide : ∀ a b c : Bool, (((a && b) ^^ (a && c)) && b && c) = false) _ _ _

/-- The 34 rows pairwise differ on a bit both fix (R102). -/
theorem eq_of_overlaps : ∀ r ∈ opRows, ∀ q ∈ opRows, r.overlaps q = true → r = q := by decide

/-- Settles O5: rows with a common word overlap, and of the 34 rows each overlaps itself alone. -/
theorem opcodeRowsShareNoWord : Obligations.OpcodeRowsShareNoWord := fun _ r q hr hq hrw hqw =>
  eq_of_overlaps r hr q hq (overlaps_of_matchesWord hrw hqw)

/-! ## The fields a row fixes -/

theorem and_classMask (w : Word) : w &&& 0xF000 = wordNNN (fieldC w) 0 :=
  calc w &&& 0xF000
    _ = wordNNN (fieldC w) (fieldNNN w) &&& wordNNN 0xF 0 := by rw [wordNNN_fields]; rfl
    _ = wordNNN (fieldC w) 0 := BitVec.and_append.trans (congrArg₂ _ BitVec.and_allOnes BitVec.and_zero)

theorem and_classNNMask (w : Word) : w &&& 0xF0FF = wordXNN (fieldC w) 0 (fieldNN w) :=
  calc w &&& 0xF0FF
    _ = wordXNN (fieldC w) (fieldX w) (fieldNN w) &&& wordXNN 0xF 0 0xFF := by rw [wordXNN_fields]; rfl
    _ = wordXNN (fieldC w) 0 (fieldNN w) :=
      BitVec.and_append.trans (congrArg₂ _ BitVec.and_allOnes
        (BitVec.and_append.trans (congrArg₂ _ BitVec.and_zero BitVec.and_allOnes)))

theorem and_classNMask (w : Word) : w &&& 0xF00F = wordXYN (fieldC w) 0 0 (fieldN w) :=
  calc w &&& 0xF00F
    _ = wordXYN (fieldC w) (fieldX w) (fieldY w) (fieldN w) &&& wordXYN 0xF 0 0 0xF := by rw [wordXYN_fields]; rfl
    _ = wordXYN (fieldC w) 0 0 (fieldN w) :=
      BitVec.and_append.trans (congrArg₂ _ BitVec.and_allOnes
        (BitVec.and_append.trans (congrArg₂ _ BitVec.and_zero
          (BitVec.and_append.trans (congrArg₂ _ BitVec.and_zero BitVec.and_allOnes)))))

/-- The row of one word (R96). -/
def rowOfWord (v : Word) : OpRow := ⟨0xFFFF, v⟩
/-- The row of all words of a class (R95). -/
def rowOfClass (c : Nibble) : OpRow := ⟨0xF000, wordNNN c 0⟩
/-- The row of the words of a class with a sub-selector in the bottom nibble (R97, R100). -/
def rowOfClassN (c n : Nibble) : OpRow := ⟨0xF00F, wordXYN c 0 0 n⟩
/-- The row of the words of a class with a sub-selector in the bottom byte (R98, R99). -/
def rowOfClassNN (c : Nibble) (nn : Byte) : OpRow := ⟨0xF0FF, wordXNN c 0 nn⟩

section
variable (w : Word)

@[simp] theorem matchesWord_rowOfWord (v : Word) : (rowOfWord v).matchesWord w = true ↔ w = v := by
  rw [OpRow.matchesWord, beq_iff_eq]
  exact (BitVec.and_allOnes (x := w)).congr_left

@[simp] theorem matchesWord_rowOfClass (c : Nibble) : (rowOfClass c).matchesWord w = true ↔ fieldC w = c := by
  rw [OpRow.matchesWord, beq_iff_eq, rowOfClass, and_classMask]
  exact ⟨fun h => by simpa using congrArg fieldC h, fun h => h ▸ rfl⟩

@[simp] theorem matchesWord_rowOfClassN (c n : Nibble) :
    (rowOfClassN c n).matchesWord w = true ↔ fieldC w = c ∧ fieldN w = n := by
  rw [OpRow.matchesWord, beq_iff_eq, rowOfClassN, and_classNMask]
  exact ⟨fun h => ⟨by simpa using congrArg fieldC h, by simpa using congrArg fieldN h⟩,
    fun ⟨hc, hn⟩ => hc ▸ hn ▸ rfl⟩

@[simp] theorem matchesWord_rowOfClassNN (c : Nibble) (nn : Byte) :
    (rowOfClassNN c nn).matchesWord w = true ↔ fieldC w = c ∧ fieldNN w = nn := by
  rw [OpRow.matchesWord, beq_iff_eq, rowOfClassNN, and_classNNMask]
  exact ⟨fun h => ⟨by simpa using congrArg fieldC h, by simpa using congrArg fieldNN h⟩,
    fun ⟨hc, hnn⟩ => hc ▸ hnn ▸ rfl⟩

end

/-! ## The words of the map -/

/-- The rows of the map, sorted by the fields they fix. -/
def rowsByFields : List OpRow :=
  [0x00E0, 0x00EE].map rowOfWord ++
  [0x1, 0x2, 0x3, 0x4, 0x6, 0x7, 0xA, 0xB, 0xC, 0xD].map rowOfClass ++
  [0x5, 0x9].map (rowOfClassN · 0x0) ++
  [0x0, 0x1, 0x2, 0x3, 0x4, 0x5, 0x6, 0x7, 0xE].map (rowOfClassN 0x8) ++
  [0x9E, 0xA1].map (rowOfClassNN 0xE) ++
  [0x07, 0x0A, 0x15, 0x18, 0x1E, 0x29, 0x33, 0x55, 0x65].map (rowOfClassNN 0xF)

theorem opRows_perm_rowsByFields : opRows.Perm rowsByFields := by decide

/-- The words of the map by their fields, class by class (R95 to R100). -/
theorem wordWellFormed_iff (w : Word) : wordWellFormed w = true ↔
    w ∈ [0x00E0, 0x00EE] ∨
    fieldC w ∈ [0x1, 0x2, 0x3, 0x4, 0x6, 0x7, 0xA, 0xB, 0xC, 0xD] ∨
    (fieldC w ∈ [0x5, 0x9] ∧ fieldN w = 0x0) ∨
    (fieldC w = 0x8 ∧ fieldN w ∈ [0x0, 0x1, 0x2, 0x3, 0x4, 0x5, 0x6, 0x7, 0xE]) ∨
    (fieldC w = 0xE ∧ fieldNN w ∈ [0x9E, 0xA1]) ∨
    (fieldC w = 0xF ∧ fieldNN w ∈ [0x07, 0x0A, 0x15, 0x18, 0x1E, 0x29, 0x33, 0x55, 0x65]) := by
  rw [wordWellFormed, opRows_perm_rowsByFields.any_eq]
  simp [rowsByFields, or_assoc, and_or_left, or_and_right]

/-- The fields of the encoder's shape are those the instruction's row asks for. -/
theorem wordWellFormed_encode (i : Instr) : wordWellFormed (encode i) = true := by
  rw [wordWellFormed_iff]
  cases i <;> simp [encode]

theorem exists_decode_of_wordWellFormed {w : Word} (h : wordWellFormed w = true) : ∃ i, decode w = .ok i := by
  obtain hw | hc | ⟨hc, hn⟩ | ⟨hc, hn⟩ | ⟨hc, hnn⟩ | ⟨hc, hnn⟩ := (wordWellFormed_iff w).mp h
  · fin_cases hw
    exacts [⟨.cls, rfl⟩, ⟨.ret, rfl⟩]
  · generalize h : fieldC w = c at hc
    fin_cases hc <;> simp [decode, h]
  · generalize h : fieldC w = c at hc
    fin_cases hc <;> simp [decode, decodeCompare, h, hn]
  · rw [decode_of_class8 hc]
    generalize h : fieldN w = n at hn
    fin_cases hn <;> simp [decode8, h]
  · rw [decode_of_classE hc]
    generalize h : fieldNN w = nn at hnn
    fin_cases hnn <;> simp [decodeE, h]
  · rw [decode_of_classF hc]
    generalize h : fieldNN w = nn at hnn
    fin_cases hnn <;> simp [decodeF, h]

/-- Settles O4: a word that decodes is an encoded instruction, and its row has the instruction's fields. -/
theorem decodesExactlyTheMap : Obligations.DecodesExactlyTheMap := fun _ =>
  ⟨fun ⟨i, hi⟩ => encode_of_decode hi ▸ wordWellFormed_encode i, exists_decode_of_wordWellFormed⟩

theorem exists_decode_error {w : Word} (h : wordWellFormed w = false) : ∃ r, decode w = .error r := by
  cases hd : decode w with
  | error r => exact ⟨r, rfl⟩
  | ok i => simp [(decodesExactlyTheMap w).mp ⟨i, hd⟩] at h

namespace Machine

open Sys2Proof.Rules

/-- Settles O8: the word is fetched, and the decoder rejects it. -/
theorem undecodableWordHalts : Obligations.UndecodableWordHalts := by
  intro s hrun hpc hw
  obtain ⟨r, hr⟩ := exists_decode_error hw
  exact step_of_decode_error hrun (s.fetch_ok (by omega)) hr

end Machine

end Sys2Proof
end

section
/-! PROOF of O6, O7, O9, O10, O13 and O41. The ends of a cycle (R128 to R130) by the equations of `step`, and the tick
after the execute stage (R126). -/

namespace Sys2Proof.Machine

/-! ## The ends of a cycle -/

/-- Settles O9: the halted way through the cycle. -/
theorem haltedCoreNeverChanges : Obligations.HaltedCoreNeverChanges := fun _ => step_of_halted

/-- Settles O7: the second byte of the fetch is above 0xFFF. -/
theorem fetchOutsideMemoryHalts : Obligations.FetchOutsideMemoryHalts := fun s hrun hpc =>
  step_of_fetch_error hrun (s.fetch_error (by omega))

/-- Settles O10: of the ends of a cycle `step_cases` names, a running core halts only by taking a fault. -/
theorem faultingCycleCommitsNothing : Obligations.FaultingCycleCommitsNothing := by
  intro s t hrun h ht
  obtain ⟨hhalted, -⟩ | ⟨-, c, w, rfl⟩ | ⟨i, -, -, rfl⟩ := step_cases h
  · exact absurd hhalted (by simp [hrun])
  · exact ⟨c, w, rfl⟩
  · exact absurd ht (by simp [hrun])

/-! ## The tick -/

/-- One timer's tick as R126 writes it. -/
theorem tickTimer_eq (b : Byte) : tickTimer b = if 0 < b.toNat then b - 1 else b := by
  apply BitVec.eq_of_toNat_eq
  rw [toNat_tickTimer]
  split <;> bv_omega

/-- Settles O6: the bytes at pc are fetched and decode to the instruction; the end of the cycle is the tick or nothing. -/
theorem stepRunsDecodedInstruction : Obligations.StepRunsDecodedInstruction := by
  intro s t i hi hexec
  have ⟨hrun, _, hdecode⟩ := hi
  have hstep : step s = endOfCycle (exec i s.advance) := step_of_decode_ok hrun (fetch_of_atInstr hi) hdecode
  rw [hstep, State.advance, hexec, endOfCycle_next, State.endCycle, State.tick, tickTimer_eq, tickTimer_eq]

/-- Settles O13: a cycle that ends running ends in the tick of the completed instruction, which leaves a timer alone
unless it sets it. -/
theorem timersTickAfterExecute : Obligations.TimersTickAfterExecute := by
  intro s t i hi h ht
  obtain ⟨-, rfl⟩ := completes_of_running hi h ht
  rw [State.tick_dt, State.tick_st, toNat_tickTimer, toNat_tickTimer]
  refine ⟨?_, fun hdt => ?_, ?_, fun hst => ?_, ?_⟩
  · rintro x rfl
    rfl
  · rw [completed_dt_of_ne hdt, State.advance_dt]
  · rintro x rfl
    rfl
  · rw [completed_st_of_ne hst, State.advance_st]
  · rintro x rfl
    exact s.advance.getV_setV_same x s.dt

/-- Settles O41: each timer move is one update of the state, and the tick follows it. -/
theorem timerMovesCopyTheValue : Obligations.TimerMovesCopyTheValue := by
  intro s x
  refine ⟨⟨s.setV x s.dt, rfl, s.getV_setV_same x _, toNat_tickTimer _, fun z hz => ?_, rfl, fun _ => rfl⟩,
    ⟨s.setDT (s.getV x), rfl, rfl, toNat_tickTimer _, rfl, fun _ => rfl⟩,
    ⟨s.setST (s.getV x), rfl, rfl, toNat_tickTimer _, rfl, fun _ => rfl⟩⟩
  exact s.getV_setV_ne _ (List.ne_of_not_mem_cons hz)

end Sys2Proof.Machine
end

section
/-! PROOF of O21 to O24 and O26. A control transfer that completes writes pc and, for call and return, the stack
(R140 to R148); the state it leaves is read off `completed`, that of a stopped one off `faulted`. -/

namespace Sys2Proof.Machine

open Sys2Proof.Rules

/-! ## The two ends of the execute stage -/

theorem exec_of_completes {s : State} {i : Instr} (h : stopCause s i = none) : exec i s = .next (completed s i) := by
  rw [exec_eq, afterExec_of_completes h]

theorem exec_of_stop {s : State} {i : Instr} {c : Fault} (h : stopCause s i = some c) :
    exec i s = .next (faulted c i s) := by
  rw [exec_eq, afterExec_of_stop h]

/-- A stopped instruction halts the core with a record of its cause; of the other fields only pc may differ (R128,
R276). -/
theorem exec_stop_halts {s : State} {i : Instr} {c : Fault} (h : stopCause s i = some c) :
    ∃ t, exec i s = .next t ∧ t.halted = true ∧ (∃ r, t.fault = some r ∧ r.cause = c) ∧
      t = { s with pc := t.pc, halted := t.halted, fault := t.fault } :=
  ⟨_, exec_of_stop h, rfl, ⟨_, rfl, rfl⟩, rfl⟩

/-! ## Jump, call and return -/

/-- Settles O21: no cause of R271 stops a jump, and the 16-bit sum of jump-offset does not wrap. -/
theorem jumpsWriteOnlyPc : Obligations.JumpsWriteOnlyPc := by
  intro s nnn
  have htarget : (offsetTarget s nnn).toNat = nnn.toNat + (s.getV 0).toNat := toNat_offsetTarget s nnn
  refine ⟨⟨_, exec_of_completes rfl, toNat_addrOf nnn, rfl, fun _ => rfl⟩,
    ⟨_, exec_of_completes rfl, htarget, htarget.trans_le ?_, rfl, fun _ => rfl⟩⟩
  omega

/-- Settles O22: the stack's length decides between the push and the overflow. -/
theorem callPushesReturnAddress : Obligations.CallPushesReturnAddress := by
  refine fun s nnn => ⟨fun hroom => ?_, fun hfull => ?_⟩
  · have hs : stopCause s (.call nnn) = none := if_neg (by omega)
    exact ⟨_, exec_of_completes hs, rfl, toNat_addrOf nnn, rfl, fun _ => rfl⟩
  · have hs : stopCause s (.call nnn) = some .stackOverflow := if_pos hfull.ge
    exact exec_stop_halts hs

/-- Settles O23: the newest entry is the stack's last, and only an empty stack has none. -/
theorem retPopsNewestEntry : Obligations.RetPopsNewestEntry := by
  refine fun s => ⟨fun l a hstack => ?_, fun hempty => ?_⟩
  · have hs : stopCause s .ret = none := if_neg (by simp [hstack])
    refine ⟨_, exec_of_completes hs, ?_, ?_, rfl, fun _ => rfl⟩
    · simp [completed, hstack]
    · simp [completed, hstack]
  · have hs : stopCause s .ret = some .stackUnderflow := if_pos (by simp [hempty])
    exact exec_stop_halts hs

/-! ## The skips -/

/-- A skip with a condition is not stopped: a key has a level only where V[X] is a key number (R256). -/
theorem stopCause_of_skipHolds {s : State} {i : Instr} {b : Bool} (h : skipHolds s i = some b) :
    stopCause s i = none := by
  cases i with
  | skp x =>
    obtain ⟨hkey, -⟩ := Vector.getElem?_eq_some_iff.mp h
    exact if_neg (by omega)
  | sknp x =>
    obtain ⟨down, hdown, -⟩ := Option.map_eq_some_iff.mp h
    obtain ⟨hkey, -⟩ := Vector.getElem?_eq_some_iff.mp hdown
    exact if_neg (by omega)
  | seImm _ _ | sneImm _ _ | seReg _ _ | sneReg _ _ => rfl
  | _ => cases h

/-- A skip writes pc alone: 2 more when its condition holds, and pc as fetch left it when not (R148). -/
theorem completed_of_skipHolds {s : State} {i : Instr} {b : Bool} (h : skipHolds s i = some b) :
    completed s i = s.setPc (if b = true then s.pc + 2 else s.pc) := by
  have hskip : completed s i = s.setPc (if skipHolds s i = some true then s.pc + 2 else s.pc) := by
    cases i with
    | seImm _ _ | sneImm _ _ | seReg _ _ | sneReg _ _ | skp _ | sknp _ => rfl
    | _ => cases h
  simp only [hskip, h, Option.some.injEq]

/-- Settles O24: it holds of every skip with a condition, the register skips among them. -/
theorem registerSkipsWriteOnlyPc : Obligations.RegisterSkipsWriteOnlyPc := by
  intro s _ _ _ i b _ h
  have hexec := exec_of_completes (stopCause_of_skipHolds h)
  rw [completed_of_skipHolds h] at hexec
  exact ⟨_, hexec, rfl, rfl, fun _ => rfl⟩

/-- Settles O26: the skip adds to the 2 of fetch, and the tick leaves pc alone; from 0xFFE at most neither addition
wraps. -/
theorem skipDistanceIsFourOrTwo : Obligations.SkipDistanceIsFourOrTwo := by
  intro s i b hi h
  have ⟨_, hpc, _⟩ := hi
  have hstep := step_of_completes hi (stopCause_of_skipHolds h)
  rw [completed_of_skipHolds ((skipHolds_advance s i).trans h)] at hstep
  refine ⟨_, hstep, ?_, rfl⟩
  rw [State.tick_pc, State.setPc_pc, State.advance_pc]
  split <;> bv_omega

end Sys2Proof.Machine
end

section
/-! PROOF of O27 and O28. An operation of the arithmetic unit is one `setV`, or one `setVThenFlag` where it sets VF (R170);
what is left to say of each is its value, and its flag, in plain numbers. -/

namespace Sys2Proof.Machine

open Sys2Proof.Rules

/-! ## Byte arithmetic in plain numbers -/

theorem toNat_byteSub (a b : Byte) : (a - b).toNat = (256 + a.toNat - b.toNat) % 256 := by bv_omega

theorem toNat_byteShiftRight (a : Byte) : (a >>> 1).toNat = a.toNat / 2 := by
  rw [BitVec.toNat_ushiftRight, Nat.shiftRight_eq_div_pow, pow_one]

theorem toNat_byteShiftLeft (a : Byte) : (a <<< 1).toNat = a.toNat * 2 % 256 := by
  rw [BitVec.toNat_shiftLeft, Nat.shiftLeft_eq, pow_one]

/-! ## The operations without a flag -/

/-- An operation without a flag completes with one register write, of the value R171 to R176 give. -/
theorem exec_of_plainResult {s : State} {i : Instr} {x : Reg} {r : Nat} (h : plainResult s i = some (x, r)) :
    ∃ b : Byte, exec i s = .next (s.setV x b) ∧ b.toNat = r := by
  cases i with
  | ldImm _ _ | ldReg _ _ => cases h; exact ⟨_, rfl, rfl⟩
  | addImm _ _ => cases h; exact ⟨_, rfl, BitVec.toNat_add ..⟩
  | or _ _ => cases h; exact ⟨_, rfl, BitVec.toNat_or ..⟩
  | and _ _ => cases h; exact ⟨_, rfl, BitVec.toNat_and ..⟩
  | xor _ _ => cases h; exact ⟨_, rfl, BitVec.toNat_xor ..⟩
  | _ => cases h

/-- Settles O27: a register write leaves every other register and field alone. -/
theorem plainOperationsWriteOnlyTheResult : Obligations.PlainOperationsWriteOnlyTheResult := by
  intro s i x r h
  obtain ⟨b, hexec, rfl⟩ := exec_of_plainResult h
  refine ⟨_, hexec, congrArg BitVec.toNat (s.getV_setV_same x b), fun z hz => ?_, rfl, fun _ => rfl⟩
  exact s.getV_setV_ne b (List.ne_of_not_mem_cons hz)

/-! ## The operations that set VF -/

/-- A flag-setting operation completes with the two writes of R170, of the result and the flag R177 to R181 give. -/
theorem exec_of_flagResult {s : State} {i : Instr} {x : Reg} {r f : Nat} (h : flagResult s i = some (x, r, f)) :
    ∃ b c : Byte, exec i s = .next (s.setVThenFlag x b c) ∧ b.toNat = r ∧ c.toNat = f := by
  cases i with
  | addReg _ _ => cases h; exact ⟨_, _, rfl, BitVec.toNat_add .., toNat_carryFlag ..⟩
  | sub _ _ | subn _ _ => cases h; exact ⟨_, _, rfl, toNat_byteSub .., toNat_noBorrowFlag ..⟩
  | shr _ _ => cases h; exact ⟨_, _, rfl, toNat_byteShiftRight _, toNat_shiftRightFlag _⟩
  | shl _ _ => cases h; exact ⟨_, _, rfl, toNat_byteShiftLeft _, toNat_shiftLeftFlag _⟩
  | _ => cases h

/-- Settles O28: the flag is written last, so VF holds it whatever X is (decision D5). -/
theorem flagOperationsWriteResultAndFlag : Obligations.FlagOperationsWriteResultAndFlag := by
  intro s i x r f h
  obtain ⟨b, c, hexec, rfl, rfl⟩ := exec_of_flagResult h
  refine ⟨_, hexec, congrArg BitVec.toNat (s.getV_setVThenFlag_flag x b c), fun hx => ?_, fun z hz => ?_, rfl,
    fun _ => rfl⟩
  · exact congrArg BitVec.toNat (s.getV_setVThenFlag_dest b c hx)
  · exact s.getV_setVThenFlag_ne b c (List.ne_of_not_mem_cons hz)
      (List.ne_of_not_mem_cons (List.not_mem_of_not_mem_cons hz))

end Sys2Proof.Machine
end

section
/-! PROOF of O30 to O35. An index instruction writes I alone (R200 to R202). A store that may be written leaves its bytes
from I on (R203, R204), a load fills V0 .. VX from there (R205), and both leave I (R206), so that a
load after a dump reads back what the dump stored. -/

namespace Sys2Proof.Machine

open Sys2Proof.Rules

/-! ## The index register -/

/-- Settles O30: NNN widened with zeros is the same number. -/
theorem setIndexWritesOnlyI : Obligations.SetIndexWritesOnlyI := fun _ nnn =>
  ⟨_, exec_of_completes rfl, toNat_addrOf nnn, rfl, fun _ => rfl⟩

/-- Settles O31: the sum wraps at 16 bits (decision D13); the glyph address of any byte fits in them (decision D15). -/
theorem indexArithmeticWritesOnlyI : Obligations.IndexArithmeticWritesOnlyI := fun s x =>
  ⟨⟨_, exec_of_completes rfl, toNat_indexSum s x, rfl, fun _ => rfl⟩,
    ⟨_, exec_of_completes rfl, toNat_glyphAddress (s.getV x), rfl, fun _ => rfl⟩⟩

/-! ## Stores at I -/

/-- A completed instruction leaves byte k of what it stores at I + k. -/
theorem readByte_completed_stored (s : State) (i : Instr) {k : Nat} (hk : k < (storedBytes s i).length) :
    (completed s i).readByte (s.i.toNat + k) = (storedBytes s i)[k] := by
  rw [State.readByte, completed_mem]
  exact Memory.read_writeBytes _ _ _ _ hk

/-- The decimal digits of a byte, as numbers (R203). -/
theorem toNat_bcdDigits (b : Byte) :
    (bcdDigits b).map BitVec.toNat = [b.toNat / 100, b.toNat / 10 % 10, b.toNat % 10] := by
  have hb := b.isLt
  simp only [bcdDigits, List.map_cons, List.map_nil, BitVec.toNat_ofNat, List.cons.injEq, and_true]
  omega

/-- A completed LD B leaves digit k of V[X] at I + k, the hundreds first (R203). -/
theorem toNat_readByte_completed_bcd (s : State) (x : Reg) {k : Nat} (hk : k < 3) :
    ((completed s (.ldB x)).readByte (s.i.toNat + k)).toNat =
      [(s.getV x).toNat / 100, (s.getV x).toNat / 10 % 10, (s.getV x).toNat % 10][k] := by
  have hlen : k < (bcdDigits (s.getV x)).length := hk
  calc ((completed s (.ldB x)).readByte (s.i.toNat + k)).toNat
    _ = (bcdDigits (s.getV x))[k].toNat := congrArg BitVec.toNat (readByte_completed_stored s (.ldB x) hlen)
    _ = ((bcdDigits (s.getV x)).map BitVec.toNat)[k]'(by simpa using hk) := (List.getElem_map _).symm
    _ = _ := List.getElem_of_eq (toNat_bcdDigits (s.getV x)) _

/-- Settles O32: the three bytes stored are the digits, the first at I. -/
theorem bcdStoresThreeDigits : Obligations.BcdStoresThreeDigits := by
  intro s x hmem hfont
  have hs : stopCause s (.ldB x) = none := (writeCause_eq_none (by decide)).mpr ⟨by omega, by omega⟩
  have hexec := exec_of_completes hs
  exact ⟨_, hexec, toNat_readByte_completed_bcd s x (k := 0) (by decide),
    toNat_readByte_completed_bcd s x (k := 1) (by decide), toNat_readByte_completed_bcd s x (k := 2) (by decide),
    exec_sameMemoryOutside hexec, rfl⟩

/-- Settles O33: the bytes stored are V0 .. VX, one for each number up to X. -/
theorem dumpStoresRegisterPrefix : Obligations.DumpStoresRegisterPrefix := by
  intro s x hmem hfont
  have hs : stopCause s (.ldMemFromRegs x) = none := (writeCause_eq_none x.isLt).mpr ⟨by omega, by omega⟩
  have hexec := exec_of_completes hs
  have hout := exec_sameMemoryOutside hexec
  rw [storedBytes, length_regPrefix] at hout
  exact ⟨_, hexec, fun z hz => readByte_completed_dump s hz, hout, rfl⟩

/-! ## Loads from I -/

/-- A register-load is not stopped while the last byte it reads is in memory (R205). -/
theorem stopCause_load_of_le {s : State} {x : Reg} (h : s.i.toNat + x.val ≤ 0xFFF) :
    stopCause s (.ldRegsFromMem x) = none := if_neg (by omega)

/-- A completed register-load leaves in each of V0 .. VX the byte at I plus its number (R205). -/
theorem getV_completed_load (s : State) {x z : Reg} (hz : z ≤ x) :
    (completed s (.ldRegsFromMem x)).getV z = s.readByte (s.i.toNat + z.val) := by
  have hlen : z.val < 0 + (s.mem.readBytes s.i.toNat (x.val + 1)).length := by
    rw [Memory.length_readBytes, Nat.zero_add]
    exact Nat.lt_succ_of_le hz
  calc (putRegs s.v 0 (s.mem.readBytes s.i.toNat (x.val + 1))).get z
    _ = (s.mem.readBytes s.i.toNat (x.val + 1))[z.val - 0] :=
      (get_putRegs _ _ _ _).trans (dif_pos ⟨Nat.zero_le _, hlen⟩)
    _ = s.readByte (s.i.toNat + z.val) := Memory.getElem_readBytes ..

/-- Settles O34: the registers above X are not among those a register-load writes. -/
theorem loadFillsRegisterPrefix : Obligations.LoadFillsRegisterPrefix := by
  intro s x hmem
  refine ⟨_, exec_of_completes (stopCause_load_of_le hmem), fun z hz => getV_completed_load s hz, fun z hz => ?_, rfl,
    fun _ => rfl⟩
  exact completed_getV_of_notMem (by simpa [writtenRegs] using hz)

/-- Settles O35: the dump's write check has the run in memory, so the load completes; it reads at the index the dump left
the bytes the dump stored. -/
theorem loadAfterDumpRestores : Obligations.LoadAfterDumpRestores := by
  intro s t u x h hhalted hrun hi hm
  obtain ⟨hs, rfl⟩ := exec_completes_of_running h (hhalted.trans hrun)
  have hi' : u.i = s.i := hi
  have hend : s.i.toNat + (x.val + 1) ≤ 0x1000 := ((writeCause_eq_none x.isLt).mp hs).1
  refine ⟨_, exec_of_completes (stopCause_load_of_le (by rw [hi']; omega)), fun z hz => ?_⟩
  calc (completed u (.ldRegsFromMem x)).getV z
    _ = u.readByte (u.i.toNat + z.val) := getV_completed_load u hz
    _ = (completed s (.ldMemFromRegs x)).readByte (s.i.toNat + z.val) := by
      rw [State.readByte, State.readByte, hm, hi']
    _ = s.getV z := readByte_completed_dump s hz

end Sys2Proof.Machine
end

section
/-! PROOF of O37 to O39. A draw covers cells with set sprite bits. Each turn of its loop exclusive-ors the cells it covers
and reports a covered cell that was set (R231, R235); no two turns cover one cell, for 8 columns and 15 rows do not wrap
onto themselves (R233), so the same holds of the loop as a whole. -/

namespace Sys2Proof.Machine

open Sys2Proof.Rules

/-! ## Drawing a set of cells -/

/-- From `d` to `d'` the cells `covered` names are exclusive-ored with true, and `hit` tells whether one of them was set. -/
structure Drawing.Xors (covered : Fin 64 → Fin 32 → Bool) (d d' : Drawing) : Prop where
  cell : ∀ cx cy, d'.fb.cell cx cy = xor (d.fb.cell cx cy) (covered cx cy)
  hit : d'.hit = true ↔ d.hit = true ∨ ∃ cx cy, d.fb.cell cx cy = true ∧ covered cx cy = true

theorem Drawing.Xors.refl {covered : Fin 64 → Fin 32 → Bool} (d : Drawing) (h : ∀ cx cy, covered cx cy = false) :
    d.Xors covered d where
  cell := by simp [h]
  hit := by simp [h]

/-- One draw after another covers what either does, if no cell is covered twice: the second then finds the cells it covers
as the first did. -/
theorem Drawing.Xors.trans {m₁ m₂ m : Fin 64 → Fin 32 → Bool} {d d' d'' : Drawing} (h₁ : d.Xors m₁ d')
    (h₂ : d'.Xors m₂ d'') (hdisj : ∀ cx cy, m₁ cx cy = true → m₂ cx cy = false)
    (hm : ∀ cx cy, m cx cy = (m₁ cx cy || m₂ cx cy)) : d.Xors m d'' where
  cell cx cy := by
    rw [h₂.cell, h₁.cell, hm]
    cases h : m₁ cx cy with
    | false => simp
    | true => simp [hdisj cx cy h]
  hit := by
    have hsecond : ∀ cx cy, (d'.fb.cell cx cy = true ∧ m₂ cx cy = true) ↔
        (d.fb.cell cx cy = true ∧ m₂ cx cy = true) := fun cx cy => by
      rw [h₁.cell]
      cases h : m₁ cx cy with
      | false => simp
      | true => simp [hdisj cx cy h]
    simp only [h₂.hit, h₁.hit, hsecond, hm, Bool.or_eq_true, and_or_left, exists_or, or_assoc]

/-! ## The cells the loop covers -/

/-- The sprite column that lies on a screen column, if below 8 (R233). -/
def spriteCol (x0 : Nat) (cx : Fin 64) : Nat := (cx.val + 64 - x0 % 64) % 64
/-- The sprite row that lies on a screen row, if below the sprite's height (R233). -/
def spriteRow (y0 : Nat) (cy : Fin 32) : Nat := (cy.val + 32 - y0 % 32) % 32

/-- Sprite row r, column c covers the cell with a set bit. -/
def bitCovers (x0 y0 r : Nat) (row : Byte) (c : Nat) (cx : Fin 64) (cy : Fin 32) : Bool :=
  decide (spriteRow y0 cy = r ∧ spriteCol x0 cx = c) && spriteBit row c

/-- The first k columns of sprite row r cover the cell with a set bit. -/
def rowCovers (x0 y0 r : Nat) (row : Byte) (k : Nat) (cx : Fin 64) (cy : Fin 32) : Bool :=
  decide (spriteRow y0 cy = r ∧ spriteCol x0 cx < k) && spriteBit row (spriteCol x0 cx)

theorem rowCovers_eq_true {x0 y0 r k : Nat} {row : Byte} {cx : Fin 64} {cy : Fin 32}
    (h : rowCovers x0 y0 r row k cx cy = true) : spriteRow y0 cy = r ∧ spriteCol x0 cx < k := by
  rw [rowCovers, Bool.and_eq_true, decide_eq_true_eq] at h
  exact h.left

/-- One more column of a row covers one cell more, if its bit is set. -/
theorem rowCovers_succ (x0 y0 r : Nat) (row : Byte) (k : Nat) (cx : Fin 64) (cy : Fin 32) :
    rowCovers x0 y0 r row (k + 1) cx cy = (rowCovers x0 y0 r row k cx cy || bitCovers x0 y0 r row k cx cy) := by
  obtain h | h | h := Nat.lt_trichotomy (spriteCol x0 cx) k
  · simp [rowCovers, bitCovers, h, h.ne, Nat.lt_succ_of_lt h]
  · simp [rowCovers, bitCovers, h]
  · have hnext : ¬ spriteCol x0 cx < k + 1 := by omega
    simp [rowCovers, bitCovers, h.ne', h.not_gt, hnext]

/-- The sprite rows from r on, listed in `rows`, cover the cell with a set bit. -/
def rowsCover (x0 y0 r : Nat) (rows : List Byte) (cx : Fin 64) (cy : Fin 32) : Bool :=
  decide (r ≤ spriteRow y0 cy) && rows[spriteRow y0 cy - r]?.any fun row => rowCovers x0 y0 (spriteRow y0 cy) row 8 cx cy

theorem rowsCover_cons (x0 y0 r : Nat) (row : Byte) (rows : List Byte) (cx : Fin 64) (cy : Fin 32) :
    rowsCover x0 y0 r (row :: rows) cx cy = (rowCovers x0 y0 r row 8 cx cy || rowsCover x0 y0 (r + 1) rows cx cy) := by
  obtain h | h | h := Nat.lt_trichotomy (spriteRow y0 cy) r
  · have hnext : ¬ r + 1 ≤ spriteRow y0 cy := by omega
    simp [rowsCover, rowCovers, h.ne, h.not_ge, hnext]
  · simp [rowsCover, h]
  · have hnext : spriteRow y0 cy - r = spriteRow y0 cy - (r + 1) + 1 := by omega
    simp [rowsCover, rowCovers, h.ne', h.le, Nat.succ_le_of_lt h, hnext]

/-! ## The loop -/

theorem drawBit_xors {x0 y0 r c : Nat} (row : Byte) (d : Drawing) (hr : r < 16) (hc : c < 8) :
    d.Xors (bitCovers x0 y0 r row c) (drawBit x0 y0 r row d c) := by
  cases hbit : spriteBit row c with
  | false =>
    rw [drawBit_clear hbit]
    exact .refl d (by simp [bitCovers, hbit])
  | true =>
    have hcell (cx : Fin 64) (cy : Fin 32) :
        (spriteRow y0 cy = r ∧ spriteCol x0 cx = c) ↔ (cx = wrapX x0 c ∧ cy = wrapY y0 r) :=
      and_comm.trans (wrap_eq_iff x0 y0 c r cx cy hc hr).symm
    rw [drawBit_set hbit]
    refine ⟨fun cx cy => ?_, ?_⟩
    · simp only [Framebuffer.cell_toggle, bitCovers, hcell, hbit]
      by_cases h : cx = wrapX x0 c ∧ cy = wrapY y0 r
      · simp [h]
      · simp [h]
    · simp [bitCovers, hcell, hbit, and_left_comm]

/-- The first k columns of a sprite row, by induction on k. -/
theorem foldl_drawBit_xors {x0 y0 r : Nat} (row : Byte) (d : Drawing) (hr : r < 16) (k : Nat) (hk : k ≤ 8) :
    d.Xors (rowCovers x0 y0 r row k) ((List.range k).foldl (drawBit x0 y0 r row) d) := by
  induction k with
  | zero => exact .refl d (by simp [rowCovers])
  | succ k ih =>
    rw [List.range_succ, List.foldl_append]
    refine (ih (by omega)).trans (drawBit_xors row _ hr hk) (fun cx cy h => ?_)
      (rowCovers_succ x0 y0 r row k)
    obtain ⟨-, hcol⟩ := rowCovers_eq_true h
    simp [bitCovers, hcol.ne]

theorem drawRow_xors {x0 y0 r : Nat} (row : Byte) (d : Drawing) (hr : r < 16) :
    d.Xors (rowCovers x0 y0 r row 8) (drawRow x0 y0 r row d) := foldl_drawBit_xors row d hr 8 le_rfl

/-- The sprite rows from r on, by induction on their list; a later row covers no cell of row r. -/
theorem drawRows_xors {x0 y0 : Nat} (rows : List Byte) (r : Nat) (d : Drawing) (hr : r + rows.length ≤ 16) :
    d.Xors (rowsCover x0 y0 r rows) (drawRows x0 y0 r rows d) := by
  induction rows generalizing r d with
  | nil => exact .refl d (by simp [rowsCover])
  | cons row rows ih =>
    rw [List.length_cons] at hr
    refine (drawRow_xors row d (by omega)).trans (ih (r + 1) _ (by omega)) (fun cx cy h => ?_)
      (rowsCover_cons x0 y0 r row rows)
    obtain ⟨hrow, -⟩ := rowCovers_eq_true h
    simp [rowsCover, hrow]

/-! ## The instructions -/

/-- Settles O37: no cause of R271 stops clear-screen, and it writes the framebuffer alone. -/
theorem clearScreenClearsEveryCell : Obligations.ClearScreenClearsEveryCell := fun _ =>
  ⟨_, exec_of_completes rfl, Framebuffer.cell_blank, rfl, fun _ => rfl⟩

/-- The rows a draw reads cover the cells its sprite does, with the coordinates of R231 wrapped. -/
theorem rowsCover_readBytes (s : State) (x y : Reg) (n : Nibble) :
    rowsCover (drawX s x) (drawY s y) 0 (s.mem.readBytes s.i.toNat n.toNat) = spriteCovers s x y n := by
  funext cx cy
  have hcol : spriteCol (drawX s x) cx = (cx.val + 64 - (s.getV x).toNat % 64) % 64 := by simp [spriteCol, drawX]
  have hrow : spriteRow (drawY s y) cy = (cy.val + 32 - (s.getV y).toNat % 32) % 32 := by simp [spriteRow, drawY]
  simp only [spriteCovers, ← hcol, ← hrow]
  by_cases hn : spriteRow (drawY s y) cy < n.toNat
  · simp [rowsCover, rowCovers, spriteBit, State.readByte, hn]
  · simp [rowsCover, hn]

/-- A draw's loop covers the cells its sprite does: a sprite has 15 rows at most. -/
theorem drawSprite_xors (s : State) (x y : Reg) (n : Nibble) :
    Drawing.Xors (spriteCovers s x y n) { fb := s.fb, hit := false }
      (drawSprite s.fb (drawX s x) (drawY s y) (s.mem.readBytes s.i.toNat n.toNat)) := by
  have hlen : 0 + (s.mem.readBytes s.i.toNat n.toNat).length ≤ 16 := by
    rw [Memory.length_readBytes]
    omega
  rw [← rowsCover_readBytes]
  exact drawRows_xors _ 0 _ hlen

theorem collisionFlag_eq_one_or_zero (hit : Bool) : collisionFlag hit = 1 ∨ collisionFlag hit = 0 := by
  cases hit
  exacts [.inr rfl, .inl rfl]

theorem collisionFlag_eq_one_iff (hit : Bool) : collisionFlag hit = 1 ↔ hit = true := by cases hit <;> decide

/-- Settles O38: the loop by `drawSprite_xors`; the flag is written last, to VF alone. -/
theorem drawXorsTheCoveredCells : Obligations.DrawXorsTheCoveredCells := by
  intro s x y n hmem
  have hs : stopCause s (.drw x y n) = none := if_neg (by omega)
  have hxors := drawSprite_xors s x y n
  have hflag : (completed s (.drw x y n)).getV regF = collisionFlag (drawSprite s.fb (drawX s x) (drawY s y)
      (s.mem.readBytes s.i.toNat n.toNat)).hit := State.getV_setV_same ..
  refine ⟨_, exec_of_completes hs, hxors.cell, ?_, ?_, fun z hz => completed_getV_of_notMem hz, rfl, fun _ => rfl⟩
  · rw [hflag]
    exact collisionFlag_eq_one_or_zero _
  · rw [hflag, collisionFlag_eq_one_iff, hxors.hit]
    simp

/-- The covered cells depend on the two coordinate registers, I and memory only. -/
theorem spriteCovers_congr {s t : State} {x y : Reg} (n : Nibble) (hx : t.getV x = s.getV x) (hy : t.getV y = s.getV y)
    (hi : t.i = s.i) (hmem : SameMemory s t) : spriteCovers t x y n = spriteCovers s x y n := by
  funext cx cy
  simp only [spriteCovers, hx, hy, hi, hmem _]

/-- Settles O39: the first draw writes neither coordinate, so the second covers the same cells. -/
theorem drawTwiceRestoresTheScreen : Obligations.DrawTwiceRestoresTheScreen := by
  intro s x y n hmem hx hy
  obtain ⟨t, ht, htcell, -, -, htregs, htframe, htmem⟩ := drawXorsTheCoveredCells s x y n hmem
  have hi : t.i = s.i := by rw [htframe]
  have hcov : spriteCovers t x y n = spriteCovers s x y n :=
    spriteCovers_congr n (htregs x (by simpa using hx)) (htregs y (by simpa using hy)) hi htmem
  obtain ⟨u, hu, hucell, -, huflag, -, -, -⟩ := drawXorsTheCoveredCells t x y n (by rwa [SpriteInMemory, hi])
  rw [hcov] at hucell huflag
  refine ⟨t, u, ht, hu, fun cx cy => ?_, fun ⟨cx, cy, hc, hon⟩ => huflag.mpr ⟨cx, cy, hon, hc⟩⟩
  rw [hucell, htcell, Bool.xor_assoc, Bool.xor_self, Bool.xor_false]

end Sys2Proof.Machine
end

section
/-! PROOF of O25 and O42. A key skip is a skip with a condition exactly where V[X] names a key (R250, R251, R256).
Block-on-key completes with the first key of its scan, which is in ascending order, or with pc back by the 2 of fetch
(R255). -/

namespace Sys2Proof.Machine

open Sys2Proof.Rules

/-! ## The key skips -/

/-- A skip with a condition completes and writes pc alone (R148). -/
theorem exec_of_skipHolds {s : State} {i : Instr} {b : Bool} (h : skipHolds s i = some b) :
    exec i s = .next (s.setPc (if b = true then s.pc + 2 else s.pc)) := by
  rw [exec_of_completes (stopCause_of_skipHolds h), completed_of_skipHolds h]

theorem getElem?_key (s : State) (k : Reg) : s.key[k.val]? = some (s.key.get k) := by
  simp [Vector.get_eq_getElem]

theorem skipHolds_skp {s : State} {x k : Reg} (hk : (s.getV x).toNat = k.val) :
    skipHolds s (.skp x) = some (s.key.get k) := by
  rw [skipHolds, hk, getElem?_key]

theorem skipHolds_sknp {s : State} {x k : Reg} (hk : (s.getV x).toNat = k.val) :
    skipHolds s (.sknp x) = some (!s.key.get k) := by
  rw [skipHolds, hk, getElem?_key, Option.map_some]

/-- Settles O25: where V[X] names a key both are skips with a condition; above 0xF the table of R271 stops both. -/
theorem keySkipsReadTheNamedKey : Obligations.KeySkipsReadTheNamedKey := by
  refine fun s x => ⟨fun k hk => ⟨?_, ?_⟩, fun habove i hi => ?_⟩
  · exact ⟨_, exec_of_skipHolds (skipHolds_skp hk), rfl, rfl, fun _ => rfl⟩
  · refine ⟨_, exec_of_skipHolds (skipHolds_sknp hk), ?_, rfl, fun _ => rfl⟩
    cases s.key.get k <;> rfl
  · have hs : stopCause s i = some .keypadIndexOutOfRange := by
      obtain rfl | rfl := hi
      · exact if_pos habove
      · exact if_pos habove
    exact exec_stop_halts hs

/-! ## Block-on-key -/

/-- The scan meets the keys in ascending order (R255). -/
theorem getElem_keyScan : ∀ n : Fin 15, Config.keyScan[n] = n.castSucc := by decide

/-- The scan answers the lowest key down (R255). -/
theorem firstKeyDown_eq_some {s : State} {k : Reg} (hk : k ≠ 0xF) (hdown : s.key.get k = true)
    (hup : ∀ j, j < k → s.key.get j = false) : firstKeyDown s = some k := by
  have hlt : k.val < 15 := Fin.lt_last_iff_ne_last.mpr hk
  refine List.find?_eq_some_iff_getElem.mpr ⟨hdown, k.val, hlt, getElem_keyScan ⟨k, hlt⟩, fun j hj => ?_⟩
  have hget : Config.keyScan[j]'(hj.trans hlt) = ⟨j, hj.trans k.isLt⟩ := getElem_keyScan ⟨j, hj.trans hlt⟩
  rw [hget, hup _ hj, Bool.not_false]

theorem exec_ldVxK_of_key {s : State} {k : Reg} (h : firstKeyDown s = some k) (x : Reg) :
    exec (.ldVxK x) s = .next (s.setV x (BitVec.ofNat 8 k.val)) := by
  rw [exec_of_completes rfl, completed, h]; rfl

theorem completed_ldVxK_of_noKey {s : State} (h : firstKeyDown s = none) (x : Reg) :
    completed s (.ldVxK x) = s.setPc (s.pc - 2) := by
  rw [completed, h]; rfl

/-- pc back by 2 undoes what fetch did to the state (R122). -/
theorem State.advance_setPc_sub_two (s : State) : s.advance.setPc (s.advance.pc - 2) = s := by
  simp [State.advance, State.setPc]

/-- With no scanned key down the whole cycle of block-on-key is the tick (R126, R255). -/
theorem step_ldVxK_of_noKey {s : State} {x : Reg} (hi : AtInstr s (.ldVxK x)) (h : firstKeyDown s = none) :
    step s = .next s.tick := by
  rw [step_of_completes hi rfl, completed_ldVxK_of_noKey (s := s.advance) h, State.advance_setPc_sub_two]

/-- Settles O42: the scan of 0x0 .. 0xE answers the lowest key, or none; the waiting cycle is the tick alone. -/
theorem blockOnKeyTakesTheLowestKey : Obligations.BlockOnKeyTakesTheLowestKey := by
  refine fun s x => ⟨fun k hk hdown hup => ?_, fun hnone => ?_⟩
  · refine ⟨_, exec_ldVxK_of_key (firstKeyDown_eq_some hk hdown hup) x, ?_, fun z hz => ?_, rfl, fun _ => rfl⟩
    · rw [State.getV_setV_same, BitVec.toNat_ofNat]
      omega
    · exact s.getV_setV_ne _ (List.ne_of_not_mem_cons hz)
  · have hscan : firstKeyDown s = none := (firstKeyDown_eq_none s).mpr hnone
    have hexec := exec_of_completes (s := s) (i := .ldVxK x) rfl
    rw [completed_ldVxK_of_noKey hscan] at hexec
    exact ⟨⟨_, hexec, rfl, rfl, fun _ => rfl⟩, fun hi =>
      ⟨_, step_ldVxK_of_noKey hi hscan, rfl, rfl, toNat_tickTimer _, toNat_tickTimer _, rfl⟩⟩

end Sys2Proof.Machine
end

section
/-! PROOF of O11, O18 and O49. The table of R271 decides each cycle at an instruction, a fault once taken stays until
the next launch (R278, R303), and the outputs of R47 show its record. -/

namespace Sys2Proof.Machine

open Sys2Proof.Rules

/-! ## The table of causes -/

/-- The record's word, made again from the instruction, is the one fetched (R277). -/
theorem step_of_stop_word {s : State} {i : Instr} {c : Fault} (h : AtInstr s i) (hs : stopCause s i = some c) :
    step s = .next (haltedWith s c (some (wordAtPc s))) := by
  have ⟨_, _, hdecode⟩ := h
  rw [step_of_stop h hs, encode_of_decode hdecode]
  rfl

/-- Settles O11: the two ends of a cycle at an instruction; the completed one leaves `halted` as it was, false. -/
theorem executeFaultsExactlyAsListed : Obligations.ExecuteFaultsExactlyAsListed := by
  refine fun s i hi => ⟨fun c hs => step_of_stop_word hi hs, fun hs => ⟨_, step_of_completes hi hs, ?_⟩⟩
  obtain ⟨hrun, _, _⟩ := hi
  rw [State.running, State.tick_halted, completed_halted, State.advance_halted, hrun]

/-! ## The halted state through the host's events -/

/-- A cycle changes nothing on a halted core (R130), and a keypad write sets a key alone (R286). -/
theorem hostStep_of_halted {s t : State} {e : HostEvent} (h : s.halted = true) (he : isLaunch e = false)
    (hstep : hostStep s e = .next t) : t.halted = true ∧ t.fault = s.fault := by
  cases e with
  | cycle =>
    obtain rfl := next_inj ((step_of_halted h).symm.trans hstep)
    exact ⟨h, rfl⟩
  | keypad k down =>
    obtain rfl := next_inj hstep
    exact ⟨h, rfl⟩
  | launch image => cases he

/-- Settles O18, by induction on the events. -/
theorem onlyLaunchLeavesHalted : Obligations.OnlyLaunchLeavesHalted := by
  intro es
  induction es with
  | nil =>
    intro s t h _ hrun
    obtain rfl := next_inj hrun
    exact ⟨h, rfl⟩
  | cons e es ih =>
    intro s t h hes hrun
    obtain ⟨he, hes⟩ := List.forall_mem_cons.mp hes
    obtain ⟨u, hu, hrest⟩ := hostRun_cons hrun
    obtain ⟨huhalted, hufault⟩ := hostStep_of_halted h he hu
    obtain ⟨hthalted, htfault⟩ := ih u t huhalted hes hrest
    exact ⟨hthalted, htfault.trans hufault⟩

/-! ## The fault outputs -/

/-- No cause has the code that stands for no fault (R271). -/
theorem Fault.code_ne_zero (c : Fault) : c.code ≠ 0 := by cases c <;> decide

theorem State.faultCause_ne_zero_iff (s : State) : s.faultCause ≠ 0 ↔ s.fault ≠ none := by
  rw [State.faultCause]
  cases s.fault with
  | none => exact iff_of_false (absurd rfl) (absurd rfl)
  | some r => exact iff_of_true r.cause.code_ne_zero (Option.some_ne_none r)

/-- Settles O49: the invariant has a record exactly on a halted core, and a recorded cause has a code that is not 0. -/
theorem faultOutputsShowTheRecord : Obligations.FaultOutputsShowTheRecord := by
  refine ⟨fun s hinv => ?_, fun _ _ _ => ⟨rfl, rfl, rfl⟩, rfl, rfl, rfl, rfl, rfl, rfl⟩
  obtain ⟨hrecord, -⟩ := hinv.fault
  exact hrecord.trans s.faultCause_ne_zero_iff.symm

end Sys2Proof.Machine
end

section
/-! PROOF of O50. A jump to its own address writes back the pc that fetch moved on (R122, R141), so its cycle is the tick
alone (R310). -/

namespace Sys2Proof.Machine

open Sys2Proof.Rules

/-! ## The self-jump -/

/-- The jump undoes what fetch did to the state. -/
theorem completed_jp_self {s : State} {nnn : Imm12} (h : nnn.toNat = s.pc.toNat) :
    completed s.advance (.jp nnn) = s := by
  have htarget : addrOf nnn = s.pc := BitVec.eq_of_toNat_eq ((toNat_addrOf nnn).trans h)
  rw [completed, htarget]
  rfl

/-- The whole cycle of a jump to its own address is the tick (R126). -/
theorem step_jp_self {s : State} {nnn : Imm12} (hi : AtInstr s (.jp nnn)) (h : nnn.toNat = s.pc.toNat) :
    step s = .next s.tick := by
  rw [step_of_completes hi rfl, completed_jp_self h]

/-- Settles O50: the tick writes the two timers alone, and lowers each by one or leaves it at zero. -/
theorem selfJumpChangesOnlyTimers : Obligations.SelfJumpChangesOnlyTimers := fun _ _ hi h =>
  ⟨_, step_jp_self hi h, rfl, toNat_tickTimer _, toNat_tickTimer _⟩

end Sys2Proof.Machine
end
